-- ==== Sys2Proof/Word.lean ====
section
/-! DEFINITION. The words of APA102-ENC: bytes, the 128-bit command word and its 32-bit operand fields
(spec/00_scope.md R8, spec/30_encoding.md R70). -/

namespace Sys2Proof

/-- An 8-bit channel, brightness or wire byte (spec/00_scope.md R8). -/
abbrev Byte := BitVec 8

/-- A command word (spec/30_encoding.md R70). -/
abbrev Word := BitVec 128

/-- A pixel index as the command word carries it (spec/30_encoding.md R72). -/
abbrev Index := BitVec 32

/-- The bit pattern of an IEEE 754 binary32 number (spec/30_encoding.md R77). -/
abbrev Binary32 := BitVec 32

end Sys2Proof
end

