-- ==== Sys2Proof/Config.lean ====
section
/-! DEFINITION. The parameters a block is constructed with, the constants of spec/00_scope.md R7, and the free
values: what the spec leaves open, as opaque constants that no proof can see through. -/

namespace Sys2Proof

/-- How `round(31 * brightness)` is evaluated (spec/00_scope.md R7, spec/40_strip_ops.md R101). -/
inductive QuantMode where
  | exact
  | binary32
  deriving DecidableEq, Repr

/-- The platform's error, which the block passes on unread (spec/60_exceptions.md R206). DESIGN CHOICE: errors
are told apart by a number; log entry 5, safe. -/
abbrev PlatformError := Nat

/-- What the platform answers when it is asked for the three lines (spec/41_device_ops.md R130). -/
inductive Answer where
  | success
  | failure (e : PlatformError)
  deriving DecidableEq, Repr, Inhabited

/-- The configuration of one block, fixed at construction (spec/00_scope.md R7, spec/10_state.md R32). The pixel
count `N` is not here: it is the length of the pixel store, its only home. -/
structure Config where
  /-- GPIO line number of data. -/
  pinDat : Nat
  /-- GPIO line number of clock. -/
  pinClk : Nat
  /-- GPIO line number of chip-select. -/
  pinCs : Nat
  /-- `DELAY`: the least wait after each pin write, in `DELAY_UNIT`. -/
  delay : Nat
  /-- `DELAY_UNIT`, as a number of any finer unit the integrator likes. No rule reads it. -/
  delayUnit : Nat
  /-- `END_FRAME_PULSES` (spec/92_eei_decisions.md D14 lets a variant change it). -/
  endFramePulses : Nat
  /-- `QUANT_MODE`. -/
  quantMode : QuantMode
  deriving DecidableEq, Repr

namespace Config

/-- `START_FRAME_PULSES`: hardwired (spec/00_scope.md R7, spec/30_encoding.md R81). -/
def startFramePulses : Nat := 32

/-- The value of `END_FRAME_PULSES` in the block described (spec/00_scope.md R7, spec/92_eei_decisions.md D14). -/
def endFramePulsesDefault : Nat := 36

/-- `DEFAULT_BRIGHTNESS`: a constant that no rule reads (spec/10_state.md R32, spec/90_conflicts.md C1). -/
def defaultBrightness : BitVec 5 := 7

/-- `BRIGHTNESS_MAX`: the top of the 5-bit brightness domain (spec/00_scope.md R7). -/
def brightnessMax : Nat := 31

/-- The largest pixel count: an index has 32 bits (spec/00_scope.md R7, spec/92_eei_decisions.md D21). -/
def maxPixels : Nat := 2 ^ 32

/-- FREE VALUE: the `n`-th answer of the platform, where no answer was laid down for it (spec/41_device_ops.md
R130: "Every call may answer differently"). Log entry 4, safe. -/
opaque platformAnswer : Nat → Answer

/-- FREE VALUE: three unrelated naturals, from which the OPEN line numbers are made. Log entry 3, safe. -/
opaque openNumber : Fin 3 → Nat

/-- FREE VALUE: the OPEN `DELAY_UNIT`. Log entry 3, safe. -/
opaque openDelayUnit : Nat

/-- The `n`-th natural that is not `taken`. -/
def skip (taken n : Nat) : Nat := if n < taken then n else n + 1

/-- The OPEN `PIN_DAT`. -/
def openPinDat : Nat := openNumber 0

/-- The OPEN `PIN_CLK`: any natural but `PIN_DAT`. -/
def openPinClk : Nat := skip openPinDat (openNumber 1)

/-- The OPEN `PIN_CS`: any natural but the other two. -/
def openPinCs : Nat :=
  skip (max openPinDat openPinClk) (skip (min openPinDat openPinClk) (openNumber 2))

/-- The block described: the defaults of spec/00_scope.md R7 where it gives one, free values where it says OPEN. -/
def described : Config where
  pinDat := openPinDat
  pinClk := openPinClk
  pinCs := openPinCs
  delay := 0
  delayUnit := openDelayUnit
  endFramePulses := endFramePulsesDefault
  quantMode := .exact

end Config

end Sys2Proof
end

