-- ==== Sys2Proof/Syntax.lean ====
section
/-! DEFINITION. The typed commands of APA102-ENC, one constructor per row of spec/opcode_table.json
(spec/30_encoding.md R71, R76). -/

namespace Sys2Proof

/-- A command with its operands in the order of spec/30_encoding.md R76. The widths of the fields are the whole of
a command's well-formedness, so the type holds no ill-formed command. The row `show` is `showStrip`, because
`show` is a word of Lean's own. -/
inductive Instr where
  /-- `init` (spec/41_device_ops.md R133). -/
  | init
  /-- `set_pixel` (spec/40_strip_ops.md R103). -/
  | setPixel (index : Index) (r g b : Byte) (bright : Binary32)
  /-- `set_all` (spec/40_strip_ops.md R106). -/
  | setAll (r g b : Byte) (bright : Binary32)
  /-- `set_brightness` (spec/40_strip_ops.md R109). -/
  | setBrightness (bright : Binary32)
  /-- `clear` (spec/40_strip_ops.md R112). -/
  | clear
  /-- `show` (spec/41_device_ops.md R136). -/
  | showStrip
  /-- `shutdown` (spec/41_device_ops.md R141). -/
  | shutdown
  deriving DecidableEq, Repr

end Sys2Proof
end

