-- ==== Sys2Proof/WellFormed.lean ====
section
/-! DEFINITION. Well-formedness: of a command word, by the rows of spec/opcode_table.json (spec/30_encoding.md R86),
and of a configuration (spec/00_scope.md R7). A typed command needs no check: spec/30_encoding.md R76 asks for
nothing beyond the widths of its fields. -/

namespace Sys2Proof

/-- One row of spec/opcode_table.json: `W` is legal for the row exactly when `W & mask = pattern`
(spec/30_encoding.md R86). -/
structure OpcodeRow where
  mask : Word
  pattern : Word
  deriving DecidableEq, Repr

/-- The seven rows of spec/opcode_table.json, in its order. -/
def opcodeRows : List OpcodeRow := [
  ⟨0xffffffffffffffffffffffffffffffff, 0x01000000000000000000000000000000⟩,
  ⟨0xffffffff0000000000000000ff000000, 0x02000000000000000000000000000000⟩,
  ⟨0xffffffffffffffff00000000ff000000, 0x03000000000000000000000000000000⟩,
  ⟨0xffffffffffffffff00000000ffffffff, 0x04000000000000000000000000000000⟩,
  ⟨0xffffffffffffffffffffffffffffffff, 0x05000000000000000000000000000000⟩,
  ⟨0xffffffffffffffffffffffffffffffff, 0x06000000000000000000000000000000⟩,
  ⟨0xffffffffffffffffffffffffffffffff, 0x07000000000000000000000000000000⟩]

/-- The word fits the row (spec/30_encoding.md R86). -/
def OpcodeRow.fits (row : OpcodeRow) (w : Word) : Bool := w &&& row.mask == row.pattern

/-- The word is one of the table's (spec/30_encoding.md R86). -/
def legalWord (w : Word) : Bool := opcodeRows.any (·.fits w)

/-- The three line numbers are pairwise distinct (spec/00_scope.md R7). -/
def Config.wf (c : Config) : Bool :=
  c.pinDat != c.pinClk && c.pinDat != c.pinCs && c.pinClk != c.pinCs

end Sys2Proof
end

