-- ==== Sys2Proof/Decode.lean ====
section
/-! DEFINITION. The decoder, total on every 128-bit word (spec/30_encoding.md R75), the encoder written from the same
field table (R70, R71), and the byte form of a word (spec/20_memory.md R54). -/

namespace Sys2Proof

/-- `opc`, bits [127:120] (spec/30_encoding.md R70). -/
def fieldOpc (w : Word) : Byte := w.extractLsb' 120 8
/-- `res0`, bits [119:96]. -/
def fieldRes0 (w : Word) : BitVec 24 := w.extractLsb' 96 24
/-- `idx`, bits [95:64]. -/
def fieldIdx (w : Word) : Index := w.extractLsb' 64 32
/-- `bri`, bits [63:32]. -/
def fieldBri (w : Word) : Binary32 := w.extractLsb' 32 32
/-- `res1`, bits [31:24]. -/
def fieldRes1 (w : Word) : Byte := w.extractLsb' 24 8
/-- `red`, bits [23:16]. -/
def fieldRed (w : Word) : Byte := w.extractLsb' 16 8
/-- `grn`, bits [15:8]. -/
def fieldGrn (w : Word) : Byte := w.extractLsb' 8 8
/-- `blu`, bits [7:0]. -/
def fieldBlu (w : Word) : Byte := w.extractLsb' 0 8

/-- The opcode bytes (spec/30_encoding.md R71). -/
def opcInit : Byte := 0x01
def opcSetPixel : Byte := 0x02
def opcSetAll : Byte := 0x03
def opcSetBrightness : Byte := 0x04
def opcClear : Byte := 0x05
def opcShow : Byte := 0x06
def opcShutdown : Byte := 0x07

/-- The opcode byte of a command (spec/30_encoding.md R71). -/
def opcodeOf : Instr → Byte
  | .init => opcInit
  | .setPixel _ _ _ _ _ => opcSetPixel
  | .setAll _ _ _ _ => opcSetAll
  | .setBrightness _ => opcSetBrightness
  | .clear => opcClear
  | .showStrip => opcShow
  | .shutdown => opcShutdown

/-- Why a word is no command. All of them are the one cause IllegalCommand (spec/30_encoding.md R73, R74); the
names are the model's. -/
inductive Illegal where
  /-- `res0` or `res1` is not zero. -/
  | reservedField
  /-- The opcode is 0x00 or 0x08 to 0xFF. -/
  | reservedOpcode
  /-- A field that the opcode does not use is not zero. -/
  | unusedField
  /-- A byte carrier holds other than the sixteen bytes of one word (log entry 15). -/
  | notOneWord
  deriving DecidableEq, Repr

/-- What the decoder answers (spec/30_encoding.md R75: "Cmd or IllegalCommand"). -/
inductive Decoded where
  | cmd (i : Instr)
  | illegal (why : Illegal)
  deriving DecidableEq, Repr

/-- The command `i`, if the fields it does not use are zero (spec/30_encoding.md R73). -/
def ifUnused (unusedZero : Bool) (i : Instr) : Decoded :=
  if unusedZero then .cmd i else .illegal .unusedField

/-- The decoder of spec/30_encoding.md R75. -/
def decode (w : Word) : Decoded :=
  let noIdx := fieldIdx w == 0
  let noRgb := fieldRed w == 0 && fieldGrn w == 0 && fieldBlu w == 0
  let nothing := noIdx && fieldBri w == 0 && noRgb
  if fieldRes0 w ≠ 0 ∨ fieldRes1 w ≠ 0 then .illegal .reservedField
  else if fieldOpc w = opcInit then ifUnused nothing .init
  else if fieldOpc w = opcSetPixel then
    .cmd (.setPixel (fieldIdx w) (fieldRed w) (fieldGrn w) (fieldBlu w) (fieldBri w))
  else if fieldOpc w = opcSetAll then
    ifUnused noIdx (.setAll (fieldRed w) (fieldGrn w) (fieldBlu w) (fieldBri w))
  else if fieldOpc w = opcSetBrightness then ifUnused (noIdx && noRgb) (.setBrightness (fieldBri w))
  else if fieldOpc w = opcClear then ifUnused nothing .clear
  else if fieldOpc w = opcShow then ifUnused nothing .showStrip
  else if fieldOpc w = opcShutdown then ifUnused nothing .shutdown
  else .illegal .reservedOpcode

/-- A word from its fields, reserved fields zero (spec/30_encoding.md R70). -/
def pack (opc : Byte) (idx : Index) (bri : Binary32) (r g b : Byte) : Word :=
  opc ++ (0 : BitVec 24) ++ idx ++ bri ++ (0 : Byte) ++ r ++ g ++ b

/-- The word of a command: the one word of spec/30_encoding.md R70 and R71 that stands for it. -/
def encode : Instr → Word
  | .init => pack opcInit 0 0 0 0 0
  | .setPixel index r g b bright => pack opcSetPixel index bright r g b
  | .setAll r g b bright => pack opcSetAll 0 bright r g b
  | .setBrightness bright => pack opcSetBrightness 0 bright 0 0 0
  | .clear => pack opcClear 0 0 0 0 0
  | .showStrip => pack opcShow 0 0 0 0 0
  | .shutdown => pack opcShutdown 0 0 0 0 0

/-- A word as a byte carrier moves it: byte 0 is bits [127:120], byte 15 is bits [7:0] (spec/20_memory.md R54). -/
def bytesOfWord (w : Word) : List Byte :=
  (List.range 16).map fun n => w.extractLsb' (8 * (15 - n)) 8

/-- Bytes read big-endian, the first the most significant (spec/20_memory.md R54). -/
def natOfBytes : List Byte → Nat
  | [] => 0
  | b :: rest => b.toNat * 256 ^ rest.length + natOfBytes rest

/-- The word that sixteen carried bytes are (spec/20_memory.md R54). -/
def wordOfBytes (bs : List Byte) : Option Word :=
  if bs.length = 16 then some (BitVec.ofNat 128 (natOfBytes bs)) else none

/-- The decoder on a byte carrier. DESIGN CHOICE: other than sixteen bytes is no command; log entry 15, safe. -/
def decodeBytes (bs : List Byte) : Decoded :=
  match wordOfBytes bs with
  | some w => decode w
  | none => .illegal .notOneWord

/-- The word whose bits spec/opcode_table.json numbers: a row's 128 bits are the command word itself, bit 0 its
least significant. -/
def tableWord (nbits w : Nat) : Word := BitVec.ofNat 128 (w % 2 ^ nbits)

/-- The command that the decoder reads from a word given as the opcode table numbers its bits. -/
def decodeTableWord (nbits w : Nat) : Option Instr :=
  match decode (tableWord nbits w) with
  | .cmd i => some i
  | .illegal _ => none

end Sys2Proof
end

