-- ==== Sys2Proof/Machine/State.lean ====
section
/-! DEFINITION. The state of APA102-ENC: everything spec/10_state.md gives the block, the configuration it was
constructed with, and the model's own records of the host's side; the reasons a step can stop; and reset. -/

namespace Sys2Proof.Machine

/-- One pixel record (spec/10_state.md R20, R21; the stored brightness is an 8-bit field, spec/00_scope.md R8). -/
structure Pixel where
  red : Byte
  green : Byte
  blue : Byte
  brightness : Byte
  deriving DecidableEq, Repr

/-- The pixel after reset (spec/10_state.md R40). -/
def Pixel.zero : Pixel := ⟨0, 0, 0, 0⟩

/-- The pixel store: `N` records, the one at place `i` of the list having index `i`; `N` is the list's length
(spec/20_memory.md R50). It has no byte addresses, so it is no list of addressed bytes (log entry 20). -/
abbrev Memory := List Pixel

/-- The store has an index for every record (spec/00_scope.md R7) and every brightness is at most 31
(spec/10_state.md R22). -/
def Memory.wf (m : Memory) : Bool :=
  decide (m.length ≤ Config.maxPixels) && m.all fun p => decide (p.brightness.toNat ≤ Config.brightnessMax)

/-- The three output lines (spec/10_state.md R20, spec/42_serializer.md R160). -/
inductive Line where
  | dat
  | clk
  | cs
  deriving DecidableEq, Repr

/-- The output latches; `none` is the spec's unknown level (spec/10_state.md R24, spec/00_scope.md R12). -/
structure Levels where
  dat : Option Bool
  clk : Option Bool
  cs : Option Bool
  deriving DecidableEq, Repr

/-- No line is driven (spec/10_state.md R42). -/
def Levels.unknown : Levels := ⟨none, none, none⟩

/-- One pin write: the line and the level it was driven to (spec/10_state.md R31). -/
abbrev PinEvent := Line × Bool

/-- The two writes of a clock pulse (spec/10_state.md R27). -/
inductive Half where
  | rise
  | fall
  deriving DecidableEq, Repr

/-- The three writes of a bit (spec/10_state.md R27). -/
inductive BitStep where
  | dat
  | rise
  | fall
  deriving DecidableEq, Repr

/-- The sequencer position: the next pin write to perform (spec/10_state.md R27). In `pixBit`, `i` is the pixel, `j`
the byte of its LED frame (0 control, 1 blue, 2 green, 3 red) and `k` the bit of the byte. The bounds of the pulse
numbers and of the pixel hang on the configuration and on `N`; `SeqPos.wf` (Sys2Proof/Safety.lean) states them. -/
inductive SeqPos where
  | idle
  | csLow
  | startDat
  | startClk (k : Nat) (h : Half)
  | pixBit (i : Nat) (j : Fin 4) (k : Fin 8) (s : BitStep)
  | endDat
  | endClk (k : Nat) (h : Half)
  | csHigh
  deriving DecidableEq, Repr

/-- A recorded contract violation: the cause with the information the table of spec/60_exceptions.md section 2
records for it. -/
inductive Violation where
  /-- Cause 1, with the whole word (R202). -/
  | illegalCommand (word : Word)
  /-- Cause 2, with the opcode (R204). -/
  | useAfterShutdown (opc : Byte)
  /-- Cause 3, with the binary32 pattern (R205). -/
  | brightnessOutOfRange (bri : Binary32)
  /-- Cause 4, with the index (R203). -/
  | indexOutOfRange (index : Index)
  deriving DecidableEq, Repr

/-- What a command that does not fault returns to the host (spec/30_encoding.md R83). -/
inductive Status where
  | ok
  | deviceError (e : PlatformError)
  deriving DecidableEq, Repr

/-- The commands that transmit. The spec's pseudocode holds it in the place a procedure returns to; a model that
makes one pin write per step holds it in State (log entry 8). -/
inductive Transmitter where
  /-- `show` (spec/41_device_ops.md R136). -/
  | showing
  /-- `shutdown` (spec/41_device_ops.md R141). -/
  | shuttingDown
  deriving DecidableEq, Repr

/-- The state. The first group is the spec's record (spec/10_state.md R20), the last the model's own. -/
structure State where
  /-- The configuration this block was constructed with; nothing writes it (spec/00_scope.md R7). -/
  cfg : Config
  /-- The pixel buffer (R21); `N` is its length. -/
  buf : Memory
  /-- The "pins initialized" flag: the three lines are held (R23, R25). -/
  initialized : Bool
  /-- The output latches (R24). -/
  level : Levels
  /-- The sequencer position (R27). -/
  pos : SeqPos
  /-- Set by SHUTDOWN (R26). -/
  released : Bool
  /-- The sticky contract fault (R30). -/
  fault : Option Violation
  /-- Every pin event since reset, oldest first (R31). -/
  trace : List PinEvent
  /-- The model's own: the command words the host is going to issue, in order (log entry 6). -/
  port : List Word
  /-- The model's own: the platform's answers already laid down, the next one first (log entry 4). -/
  answers : List Answer
  /-- The model's own: how often the platform was asked (log entry 4). -/
  asked : Nat
  /-- The model's own: the command whose transmission is under way (log entry 8). -/
  running : Option Transmitter
  /-- The model's own: the statuses the host was given, oldest first (log entry 7). -/
  replies : List Status
  deriving DecidableEq, Repr

/-- Why the machine stops. -/
inductive Fault where
  /-- Raised by `step` on a block that a contract violation halted: "the model has no step" (spec/60_exceptions.md
  R201, spec/93_implementation_defined.md U13). Safe. -/
  | halted (why : Violation)
  /-- Raised by the sequencer at a position whose pixel does not exist; `MemRead` requires `i < N`
  (spec/20_memory.md R51). No run reaches it (Sys2Proof/Safety.lean). Safe. -/
  | pixelOutOfRange (i : Nat)
  /-- Raised by the sequencer where the lines are not held; `PinWrite` requires them (spec/42_serializer.md R161).
  No run reaches it (Sys2Proof/Safety.lean). Safe. -/
  | linesNotHeld
  deriving DecidableEq, Repr

/-- Why a command is given no meaning. -/
inductive Refusal where
  /-- Raised by an arm of `exec` that has no meaning yet; none is left. Safe. -/
  | notModelled (mnemonic : String)
  /-- Raised by a meaning called while a transmission is under way: the command port accepts none then
  (spec/20_memory.md R55; spec/93_implementation_defined.md U9 says `refuse`). `step` never calls one then. Safe. -/
  | portBusy
  deriving DecidableEq, Repr

/-- Reset is construction: the host supplies `N` and the configuration (spec/70_reset_and_hazards.md R230). -/
def State.construct (cfg : Config) (n : Nat) : State where
  cfg := cfg
  buf := List.replicate n Pixel.zero
  initialized := false
  level := Levels.unknown
  pos := .idle
  released := false
  fault := none
  trace := []
  port := []
  answers := []
  asked := 0
  running := none
  replies := []

/-- The pixel count of `State.reset`. DESIGN CHOICE: `N` is the host's argument and the spec fixes none; 8 is the
strip of the source's end-to-end property (spec/95_test_vectors.md E7). Log entry 1, unsafe. -/
def State.resetPixels : Nat := 8

/-- The block described, right after a construction with eight pixels. -/
def State.reset : State := State.construct Config.described State.resetPixels

end Sys2Proof.Machine
end

