-- ==== Sys2Proof/Machine/Ops.lean ====
section
/-! DEFINITION. The named operations over the pixel store, the output latches, the fault record, the command port and
the platform: what the meanings of the commands and the serializer are written from. -/

namespace Sys2Proof.Machine

/-- The outcome of a command or of a step. -/
abbrev Result := Host.Outcome State Fault Refusal

/-! ### The pixel store (spec/20_memory.md R51) -/

/-- `MemRead(i, 4)`: the whole record, where it exists. -/
def memRead (m : Memory) (i : Nat) : Option Pixel := m[i]?

/-- `MemWrite(i, 4, p)`: the whole record. The command checks `i < N` first (R51), so the place exists. -/
def memWrite (m : Memory) (i : Nat) (p : Pixel) : Memory := m.set i p

/-- `MemWrite(i, 4, p)` for every `i` from 0 to `N - 1` (spec/40_strip_ops.md R106). -/
def memFill (m : Memory) (p : Pixel) : Memory := m.map fun _ => p

/-- `buf[i].brightness <- q` for every `i` (spec/40_strip_ops.md R109). -/
def memSetBrightness (m : Memory) (q : Byte) : Memory := m.map fun p => { p with brightness := q }

/-- `buf[i].red <- 0; buf[i].green <- 0; buf[i].blue <- 0` for every `i` (spec/40_strip_ops.md R112). -/
def memBlank (m : Memory) : Memory := m.map fun p => { p with red := 0, green := 0, blue := 0 }

/-- The state with another content of its pixel store. -/
def State.setBuf (s : State) (m : Memory) : State := { s with buf := m }

/-! ### Ending a command -/

/-- `return Status` (spec/30_encoding.md R83): the host is given the status. DESIGN CHOICE: the model records what
the host was given; log entry 7, safe. -/
def reply (st : Status) (s : State) : State := { s with replies := s.replies ++ [st] }

/-- The state after `raise Fault(cause, info)`: the fault is recorded and nothing else is written
(spec/60_exceptions.md R201). -/
def State.withFault (s : State) (v : Violation) : State := { s with fault := some v }

/-- `raise Fault(cause, info)`: the one way a command takes a contract violation (spec/60_exceptions.md R201). No
status is given; every later step answers `halted`. There is no return from it (R210). DEDUCED: raising is a
next state; log entry 10, safe. -/
def raise (v : Violation) (s : State) : Result := .next (s.withFault v)

/-- The number of a cause (spec/60_exceptions.md section 2, spec/92_eei_decisions.md D25). -/
def Violation.code : Violation → Nat
  | .illegalCommand _ => 1
  | .useAfterShutdown _ => 2
  | .brightnessOutOfRange _ => 3
  | .indexOutOfRange _ => 4

/-- The number of a status (spec/30_encoding.md R83). -/
def Status.code : Status → Nat
  | .ok => 0
  | .deviceError _ => 1

/-! ### The command port (spec/60_exceptions.md R218) -/

/-- The next command word of the host, and the state once the port has taken it. DESIGN CHOICE: the host's words
are laid down in State; log entry 6, safe. -/
def fetch (s : State) : Option (Word × State) :=
  match s.port with
  | [] => none
  | w :: rest => some (w, { s with port := rest })

/-- The state with a word put before every other the host is going to issue. -/
def State.issue (s : State) (w : Word) : State := { s with port := w :: s.port }

/-- A word that decodes to no command (spec/60_exceptions.md R202). -/
def rejectWord (w : Word) (s : State) : Result := raise (.illegalCommand w) s

/-! ### Acquiring and releasing the lines -/

/-- The answer of `Acquire()` to come (spec/41_device_ops.md R130): one already laid down, else a free value.
DESIGN CHOICE: the form of the draw; log entry 4, safe. -/
def nextAnswer (s : State) : Answer :=
  match s.answers with
  | a :: _ => a
  | [] => Config.platformAnswer s.asked

/-- The state once the platform has been asked. -/
def State.ask (s : State) : State := { s with answers := s.answers.tail, asked := s.asked + 1 }

/-- The state holding the device handle: all three lines, no level written (spec/41_device_ops.md R131). -/
def State.hold (s : State) : State := { s with initialized := true }

/-- `AcquireLines()` (spec/41_device_ops.md R131): all three lines or none. -/
def acquireLines (s : State) : Answer × State :=
  match nextAnswer s with
  | .success => (.success, s.ask.hold)
  | .failure e => (.failure e, s.ask)

/-- The lazy, idempotent setup (spec/41_device_ops.md R132): `k` goes on with the lines held, and a failed
acquisition ends the command with a device error (R133, R136, R138). -/
def withLines (k : State → State) (s : State) : State :=
  if s.initialized then k s
  else match acquireLines s with
    | (.success, t) => k t
    | (.failure e, t) => reply (.deviceError e) t

/-- `Release()` (spec/41_device_ops.md R142): the handle is given up and no line is driven; no pin event. -/
def release (s : State) : State := { s with initialized := false, level := Levels.unknown }

/-- The end of SHUTDOWN: release, `released <- true`, `return Ok` (spec/41_device_ops.md R141). -/
def retire (s : State) : State := reply .ok { release s with released := true }

/-! ### The pin controller (spec/42_serializer.md R160 to R163) -/

/-- The latch of a line. -/
def Levels.get (l : Levels) : Line → Option Bool
  | .dat => l.dat
  | .clk => l.clk
  | .cs => l.cs

/-- The latches after a line is driven. -/
def Levels.drive (l : Levels) (e : PinEvent) : Levels :=
  match e with
  | (.dat, v) => { l with dat := some v }
  | (.clk, v) => { l with clk := some v }
  | (.cs, v) => { l with cs := some v }

/-- `Delay()`: it changes no state (spec/42_serializer.md R162, R163). The wait itself is timing, which the model
leaves out (log entry 14). -/
def delay (s : State) : State := s

/-- The latch and the record of a pin write: `level[p] <- some l; trace <- trace ++ [(p, l)]`. -/
def State.record (s : State) (e : PinEvent) : State :=
  { s with level := s.level.drive e, trace := s.trace ++ [e] }

/-- `PinWrite(p, l)` (spec/42_serializer.md R161); the sequencer checks that the lines are held. -/
def pinWrite (e : PinEvent) (s : State) : State := delay (s.record e)

/-- The least time, in `DELAY_UNIT`, that the pin writes since reset took: one `DELAY` after each
(spec/70_reset_and_hazards.md R250, R251). -/
def delayFloor (s : State) : Nat := s.trace.length * s.cfg.delay

end Sys2Proof.Machine
end

