-- ==== Sys2Proof/Machine/Flags.lean ====
section
/-! DEFINITION. The block has no condition codes (spec/10_state.md R33). Its only Boolean state is `initialized`,
`released` and whether `fault` is set; this file holds the checks that every command makes of them. -/

namespace Sys2Proof.Machine

/-- A transmission is under way (spec/10_state.md R28). -/
def State.busy (s : State) : Bool := !decide (s.pos = .idle)

/-- A contract violation halted the block (spec/60_exceptions.md R201). -/
def State.halted (s : State) : Bool := s.fault.isSome

/-- A command may start: none runs (spec/20_memory.md R55), no violation is recorded (spec/60_exceptions.md R201). -/
def State.ready (s : State) : Bool := !s.busy && !s.halted

/-- The checks that come before a command's own (spec/40_strip_ops.md R100): a halted block runs none
(spec/60_exceptions.md R201), the port accepts none while one runs (spec/20_memory.md R55; DEDUCED from
spec/93_implementation_defined.md U9, log entry 11, safe), and after SHUTDOWN every command is the fault
UseAfterShutdown with its opcode (spec/60_exceptions.md R204). -/
def command (opc : Byte) (body : State → Result) (s : State) : Result :=
  match s.fault with
  | some v => .fault (.halted v)
  | none =>
    if s.busy then .refused .portBusy
    else if s.released then raise (.useAfterShutdown opc) s
    else body s

end Sys2Proof.Machine
end

