-- ==== Sys2Proof/Machine/Serializer.lean ====
section
/-! DEFINITION. The transmission: bit extraction, the packed-field mapper, the frames and the whole of `Transmit()` as
the pin events it performs (spec/42_serializer.md R164 to R173), and the sequencer that performs them one pin write
at a time (R174). -/

namespace Sys2Proof.Machine

/-- `bit(v, k)`, bit 0 the least significant (spec/42_serializer.md R165). -/
def bit (v : Byte) (k : Nat) : Bool := v.getLsbD k

/-- `Frame(p)`: the four bytes of a pixel's LED frame in wire order (spec/42_serializer.md R167). -/
def frame (p : Pixel) : List Byte := [0xE0 ||| p.brightness, p.blue, p.green, p.red]

/-- `byteOf(p, j)` (spec/42_serializer.md R174). -/
def byteOf (p : Pixel) (j : Fin 4) : Byte :=
  match j with
  | 0 => 0xE0 ||| p.brightness
  | 1 => p.blue
  | 2 => p.green
  | 3 => p.red

/-! ### `Transmit()` as a list of pin writes -/

/-- `Pulse()` (spec/42_serializer.md R164). -/
def pulse : List PinEvent := [(.clk, true), (.clk, false)]

/-- `repeat n: Pulse()`. -/
def pulses (n : Nat) : List PinEvent := (List.replicate n pulse).flatten

/-- One bit of a byte: the data level, then a pulse (spec/42_serializer.md R169). -/
def sendBit (v : Byte) (k : Nat) : List PinEvent := (.dat, bit v k) :: pulse

/-- `SendByte(v)`: bit 7 down to bit 0 (spec/42_serializer.md R169). -/
def sendByte (v : Byte) : List PinEvent := ([7, 6, 5, 4, 3, 2, 1, 0].map (sendBit v)).flatten

/-- `StartFrame()` (spec/42_serializer.md R168). -/
def startFrame : List PinEvent := (.dat, false) :: pulses Config.startFramePulses

/-- The payload of one pixel (spec/42_serializer.md R170). -/
def sendPixel (p : Pixel) : List PinEvent := ((frame p).map sendByte).flatten

/-- `EndFrame()` (spec/42_serializer.md R172) with so many pulses. -/
def endFrame (efp : Nat) : List PinEvent := (.dat, false) :: pulses efp

/-- `Transmit()`: its pin writes in order (spec/42_serializer.md R166, R171, R173). -/
def transmitEvents (efp : Nat) (m : Memory) : List PinEvent :=
  [(.cs, false)] ++ startFrame ++ (m.map sendPixel).flatten ++ endFrame efp ++ [(.cs, true)]

/-- A list of pin writes, one after the other. -/
def pinWrites (es : List PinEvent) (s : State) : State := es.foldl (fun t e => pinWrite e t) s

/-- `Transmit()` run to its end (spec/42_serializer.md R166). -/
def transmit (s : State) : State := pinWrites (transmitEvents s.cfg.endFramePulses s.buf) s

/-! ### The sequencer (spec/42_serializer.md R174) -/

/-- The level a clock write drives. -/
def Half.level : Half → Bool
  | .rise => true
  | .fall => false

/-- `write(pos)`: the pin write of a position; none at Idle, and none for a pixel that does not exist. -/
def writeAt (m : Memory) : SeqPos → Option PinEvent
  | .idle => none
  | .csLow => some (.cs, false)
  | .startDat => some (.dat, false)
  | .startClk _ h => some (.clk, h.level)
  | .pixBit i j k .dat => (memRead m i).map fun p => (.dat, bit (byteOf p j) k)
  | .pixBit i _ _ .rise => (memRead m i).map fun _ => (.clk, true)
  | .pixBit i _ _ .fall => (memRead m i).map fun _ => (.clk, false)
  | .endDat => some (.dat, false)
  | .endClk _ h => some (.clk, h.level)
  | .csHigh => some (.cs, true)

/-- `firstPix` for `n` pixels. -/
def firstPix (n : Nat) : SeqPos := if 0 < n then .pixBit 0 0 7 .dat else .endDat

/-- The position after the last write of a bit. -/
def afterBit (n i : Nat) (j : Fin 4) (k : Fin 8) : SeqPos :=
  if 0 < k.val then .pixBit i j (k - 1) .dat
  else if j.val < 3 then .pixBit i (j + 1) 7 .dat
  else if i + 1 < n then .pixBit (i + 1) 0 7 .dat
  else .endDat

/-- `succ(pos)` for `efp` end pulses and `n` pixels; Idle stays. -/
def succ (efp n : Nat) : SeqPos → SeqPos
  | .idle => .idle
  | .csLow => .startDat
  | .startDat => if 0 < Config.startFramePulses then .startClk 0 .rise else firstPix n
  | .startClk k .rise => .startClk k .fall
  | .startClk k .fall => if k + 1 < Config.startFramePulses then .startClk (k + 1) .rise else firstPix n
  | .pixBit i j k .dat => .pixBit i j k .rise
  | .pixBit i j k .rise => .pixBit i j k .fall
  | .pixBit i j k .fall => afterBit n i j k
  | .endDat => if 0 < efp then .endClk 0 .rise else .csHigh
  | .endClk k .rise => .endClk k .fall
  | .endClk k .fall => if k + 1 < efp then .endClk (k + 1) .rise else .csHigh
  | .csHigh => .idle

/-- The pixel a position names. -/
def SeqPos.pixel : SeqPos → Nat
  | .pixBit i _ _ _ => i
  | _ => 0

/-- The state with another sequencer position. -/
def State.atPos (s : State) (p : SeqPos) : State := { s with pos := p }

/-- The state with another record of the command that transmits. -/
def State.withRunning (s : State) (r : Option Transmitter) : State := { s with running := r }

/-- A transmission begins: `pos <- CsLow` (spec/42_serializer.md R174), for that command. -/
def beginTransmit (r : Transmitter) (s : State) : State := (s.withRunning (some r)).atPos .csLow

/-- What the command that transmitted does after `Transmit()`: SHUTDOWN releases and retires (spec/41_device_ops.md
R141), SHOW returns Ok (R136). -/
def finishTransmit (s : State) : State :=
  match s.running with
  | some .shuttingDown => retire (s.withRunning none)
  | some .showing => reply .ok (s.withRunning none)
  | none => s

/-- The sequencer comes to a position; at Idle its command ends with the same step (spec/10_state.md R28; DEDUCED,
log entry 9, safe). -/
def arrive (p : SeqPos) (s : State) : State :=
  if p = .idle then finishTransmit (s.atPos p) else s.atPos p

/-- One step of the sequencer: `PinWrite(write(pos))`, then `pos <- succ(pos)` (spec/42_serializer.md R174). Idle
performs no write. The two faults are the requirements of R161 and of spec/20_memory.md R51 (log entry 12). -/
def sequencerStep (s : State) : Result :=
  if s.pos = .idle then .next s
  else if s.initialized = false then .fault .linesNotHeld
  else match writeAt s.buf s.pos with
    | some e => .next (arrive (succ s.cfg.endFramePulses s.buf.length s.pos) (pinWrite e s))
    | none => .fault (.pixelOutOfRange s.pos.pixel)

end Sys2Proof.Machine
end

