-- ==== Sys2Proof/Machine/Device.lean ====
section
/-! DEFINITION. The three commands that deal with the output lines (spec/41_device_ops.md). -/

namespace Sys2Proof.Machine

/-- INIT (spec/41_device_ops.md R133): the lazy setup alone. -/
def execInit (s : State) : Result :=
  command opcInit (fun t => .next (withLines (reply .ok) t)) s

/-- SHOW (spec/41_device_ops.md R136): the lazy setup, then the transmission. This step starts it; the sequencer
performs it one pin write a step, and the last one returns Ok (spec/10_state.md R28). -/
def execShow (s : State) : Result :=
  command opcShow (fun t => .next (withLines (beginTransmit .showing) t)) s

/-- SHUTDOWN (spec/41_device_ops.md R141): blank the buffer; if the lines are held, transmit it, the release and the
retirement coming with the last pin write; else release and retire at once. It never acquires (R143). -/
def execShutdown (s : State) : Result :=
  command opcShutdown
    (fun t =>
      let blank := t.setBuf (memBlank t.buf)
      .next (if blank.initialized then beginTransmit .shuttingDown blank else retire blank)) s

end Sys2Proof.Machine
end

