-- ==== Sys2Proof/Machine/Operands.lean ====
section
/-! DEFINITION. The operand forms: the binary32 brightness (spec/30_encoding.md R77), its conversion to the 5-bit
domain in both modes (spec/40_strip_ops.md R101), and the index (spec/30_encoding.md R72). -/

namespace Sys2Proof.Machine

/-- The sign bit of a binary32 (spec/30_encoding.md R77). -/
def binSign (b : Binary32) : Bool := b.getLsbD 31
/-- The exponent field. -/
def binExp (b : Binary32) : Nat := (b.extractLsb' 23 8).toNat
/-- The fraction field. -/
def binFrac (b : Binary32) : Nat := (b.extractLsb' 0 23).toNat

/-- The reading of a binary32. Every finite one is a whole number of units of `2^(-149)`, the least subnormal, so
`finite neg u` has the value `(-1)^neg * u * 2^(-149)` exactly. PRESUMED by the spec itself
(spec/93_implementation_defined.md G1); log entry 13, safe. -/
inductive Reading where
  | nan
  | infinite (neg : Bool)
  | finite (neg : Bool) (units : Nat)
  deriving DecidableEq, Repr

/-- `val(bri)` (spec/30_encoding.md R77): `f * 2^(-149)` where the exponent is 0, else
`(2^23 + f) * 2^(e - 150)`, which is `(2^23 + f) * 2^(e - 1)` units. -/
def readBinary32 (b : Binary32) : Reading :=
  if binExp b = 255 then
    if binFrac b ≠ 0 then .nan else .infinite (binSign b)
  else if binExp b = 0 then .finite (binSign b) (binFrac b)
  else .finite (binSign b) ((2 ^ 23 + binFrac b) * 2 ^ (binExp b - 1))

/-- The units of 1.0. -/
def unitsOfOne : Nat := 2 ^ 149

/-- The units of a brightness that meets the contract: not NaN and `0 <= val <= 1`; negative zero has the value 0
(spec/30_encoding.md R77, spec/92_eei_decisions.md D32). -/
def contractUnits (b : Binary32) : Option Nat :=
  match readBinary32 b with
  | .nan => none
  | .infinite _ => none
  | .finite true u => if u = 0 then some 0 else none
  | .finite false u => if u ≤ unitsOfOne then some u else none

/-- `floor(p + 1/2)` for `p` of so many units: `(2p + 1)/2` rounded down. -/
def roundUnits (p : Nat) : Nat := (2 * p + unitsOfOne) / (2 * unitsOfOne)

/-- How many low bits a number of units has too many for a 24-bit significand. -/
def excessBits (p : Nat) : Nat := p.log2 - 23

/-- `rne32`: the nearest binary32, ties to even, of a number of units (spec/40_strip_ops.md R101). A number below
`2^24` is one itself, subnormals among them; an in-range product cannot overflow. -/
def rne32 (p : Nat) : Nat :=
  let step := 2 ^ excessBits p
  let q := p / step
  let r := p % step
  (if 2 * r > step ∨ (2 * r = step ∧ q % 2 = 1) then q + 1 else q) * step

/-- The 5-bit brightness of a number of units in range (spec/40_strip_ops.md R101). -/
def quantizeUnits (mode : QuantMode) (u : Nat) : Nat :=
  match mode with
  | .exact => roundUnits (31 * u)
  | .binary32 => roundUnits (rne32 (31 * u))

/-- `quantize` (spec/40_strip_ops.md R101): `none` where it raises BrightnessOutOfRange; it never clamps
(spec/60_exceptions.md R205). -/
def quantize (mode : QuantMode) (b : Binary32) : Option Byte :=
  (contractUnits b).map fun u => BitVec.ofNat 8 (quantizeUnits mode u)

/-- The brightness operand of a command (spec/40_strip_ops.md R100 step 3): quantized in the block's mode, or the
fault BrightnessOutOfRange with the pattern (spec/60_exceptions.md R205). -/
def withBrightness (b : Binary32) (body : Byte → State → Result) (s : State) : Result :=
  match quantize s.cfg.quantMode b with
  | some q => body q s
  | none => raise (.brightnessOutOfRange b) s

/-- The index operand of a command (spec/40_strip_ops.md R100 step 4): compared with `N` as a natural number
(spec/30_encoding.md R72), or the fault IndexOutOfRange with the index (spec/60_exceptions.md R203). -/
def withIndex (index : Index) (body : Nat → State → Result) (s : State) : Result :=
  if index.toNat < s.buf.length then body index.toNat s else raise (.indexOutOfRange index) s

end Sys2Proof.Machine
end

