-- ==== Sys2Proof/Machine/Strip.lean ====
section
/-! DEFINITION. The four commands that change the pixel buffer (spec/40_strip_ops.md). None touches a pin (R114). -/

namespace Sys2Proof.Machine

/-- SET_PIXEL (spec/40_strip_ops.md R103, R104, R105): one record, all four fields. -/
def execSetPixel (index : Index) (r g b : Byte) (bright : Binary32) (s : State) : Result :=
  command opcSetPixel
    (withBrightness bright fun q =>
      withIndex index fun i t => .next (reply .ok (t.setBuf (memWrite t.buf i ⟨r, g, b, q⟩)))) s

/-- SET_ALL (spec/40_strip_ops.md R106): every record; the brightness is checked even where there is none (R108). -/
def execSetAll (r g b : Byte) (bright : Binary32) (s : State) : Result :=
  command opcSetAll
    (withBrightness bright fun q t => .next (reply .ok (t.setBuf (memFill t.buf ⟨r, g, b, q⟩)))) s

/-- SET_BRIGHTNESS (spec/40_strip_ops.md R109, R110, R111): every brightness, no colour. -/
def execSetBrightness (bright : Binary32) (s : State) : Result :=
  command opcSetBrightness
    (withBrightness bright fun q t => .next (reply .ok (t.setBuf (memSetBrightness t.buf q)))) s

/-- CLEAR (spec/40_strip_ops.md R112, R113): every colour, no brightness. -/
def execClear (s : State) : Result :=
  command opcClear (fun t => .next (reply .ok (t.setBuf (memBlank t.buf)))) s

end Sys2Proof.Machine
end

