-- ==== Sys2Proof/Machine/Dispatch.lean ====
section
/-! DEFINITION. One arm per command. -/

namespace Sys2Proof.Machine

def exec (i : Instr) (s : State) : Host.Outcome State Fault Refusal :=
  match i with
  | .init => Sys2Proof.Machine.execInit s
  | .setPixel index r g b bright => Sys2Proof.Machine.execSetPixel index r g b bright s
  | .setAll r g b bright => Sys2Proof.Machine.execSetAll r g b bright s
  | .setBrightness bright => Sys2Proof.Machine.execSetBrightness bright s
  | .clear => Sys2Proof.Machine.execClear s
  | .showStrip => Sys2Proof.Machine.execShow s
  | .shutdown => Sys2Proof.Machine.execShutdown s

end Sys2Proof.Machine
end

