-- ==== Sys2Proof/Machine/Step.lean ====
section
/-! DEFINITION. One step of the block: a pin write of a transmission under way, or the host's next command. -/

namespace Sys2Proof.Machine

/-- The command port of an idle block: the host's next word is taken and decoded, then run or rejected; with no
word the block stays as it is (spec/60_exceptions.md R217). -/
def accept (s : State) : Host.Outcome State Fault Refusal :=
  match fetch s with
  | none => .next s
  | some (w, t) =>
    match decode w with
    | .cmd i => exec i t
    | .illegal _ => rejectWord w t

/-- One step. A halted block has none (spec/60_exceptions.md R201); a transmission under way makes one pin write
(spec/42_serializer.md R174); an idle block takes a command (spec/20_memory.md R55). -/
def step (s : State) : Host.Outcome State Fault Refusal :=
  match s.fault with
  | some v => .fault (.halted v)
  | none => if s.busy then sequencerStep s else accept s

/-- The state with a word, given as the opcode table numbers its bits, as the next one the host issues. -/
def State.withFetchWord (s : State) (nbits w : Nat) : State := s.issue (tableWord nbits w)

end Sys2Proof.Machine
end

