-- ==== Sys2Proof/Machine/Wire.lean ====
section
/-! DEFINITION. What the lines show a receiver (spec/42_serializer.md R176): a view derived from the pin events. No
command reads it (spec/92_eei_decisions.md D28). -/

namespace Sys2Proof.Machine

/-- The 32-bit LED frame `F` of a pixel (spec/30_encoding.md R82). -/
def ledFrame (p : Pixel) : BitVec 32 :=
  (0b111 : BitVec 3) ++ p.brightness.extractLsb' 0 5 ++ p.blue ++ p.green ++ p.red

/-- `F[31], ..., F[0]` (spec/20_memory.md R53). -/
def frameBits (f : BitVec 32) : List Bool := (List.range 32).map fun n => f.getLsbD (31 - n)

/-- The wire bits of a whole transaction where every pulse counts (spec/42_serializer.md R176, spec/30_encoding.md
R85). -/
def expectedBits (startPulses efp : Nat) (m : Memory) : List Bool :=
  List.replicate startPulses false ++ (m.map fun p => frameBits (ledFrame p)).flatten ++ List.replicate efp false

/-- The event is a rising clock edge on those levels; where the clock is unknown, `reading` says whether it is
taken for one (spec/42_serializer.md R176). -/
def risingEdge (reading : Bool) (l : Levels) (e : PinEvent) : Bool :=
  e == (.clk, true) && (l.clk == some false || (l.clk == none && reading))

/-- The data levels a receiver samples: `level[DAT]` at each rising clock edge while chip-select is low, the lines
starting at those levels (spec/42_serializer.md R176; rising edge: G2 of spec/93_implementation_defined.md,
PRESUMED there; log entry 16, safe). -/
def wireBits (reading : Bool) (l : Levels) : List PinEvent → List (Option Bool)
  | [] => []
  | e :: rest =>
    if risingEdge reading l e && l.cs == some false then l.dat :: wireBits reading (l.drive e) rest
    else wireBits reading (l.drive e) rest

/-- Both readings of a list of events: the model admits both (spec/93_implementation_defined.md U6). -/
def wireReadings (l : Levels) (es : List PinEvent) : List (List (Option Bool)) :=
  [wireBits true l es, wireBits false l es]

end Sys2Proof.Machine
end

