-- ==== Sys2Proof/Safety.lean ====
section
/-! DEFINITION. What holds of the block in every state a run reaches, and what the good end of a run is. -/

namespace Sys2Proof.Machine

/-- The numbers in a position are in their ranges: `Fin START_FRAME_PULSES`, `Fin N`, `Fin END_FRAME_PULSES`
(spec/10_state.md R27). -/
def SeqPos.wf (efp n : Nat) : SeqPos → Bool
  | .startClk k _ => decide (k < Config.startFramePulses)
  | .pixBit i _ _ _ => decide (i < n)
  | .endClk k _ => decide (k < efp)
  | .idle => true
  | .csLow => true
  | .startDat => true
  | .endDat => true
  | .csHigh => true

/-- The levels a completed transmission leaves: DAT 0, CLK 0, CS 1 (spec/42_serializer.md R178). -/
def Levels.resting : Levels := ⟨some false, some false, some true⟩

/-- Between transmissions no line was driven yet (spec/10_state.md R24), or all rest as the last transmission left
them (spec/42_serializer.md R178). -/
def Levels.between (l : Levels) : Bool := l == Levels.unknown || l == Levels.resting

/-- The level of the data line while bit `k` of byte `j` of pixel `i` is clocked out. -/
def dataOf (m : Memory) (i : Nat) (j : Fin 4) (k : Fin 8) : Option Bool :=
  (memRead m i).map fun p => bit (byteOf p j) k

/-- The levels the lines have when the sequencer stands at a position: chip-select is low from the first event to
the last (spec/42_serializer.md R180), data is written only while the clock is not high (R179), and the clock is
unknown only before the first pulse after acquisition (spec/70_reset_and_hazards.md R240). -/
def linesFit (m : Memory) (p : SeqPos) (l : Levels) : Bool :=
  match p with
  | .idle => l.between
  | .csLow => l.between
  | .startDat => l.cs == some false && l.clk != some true
  | .startClk k .rise =>
    l.cs == some false && l.dat == some false && (l.clk == some false || (k == 0 && l.clk == none))
  | .startClk _ .fall => l == ⟨some false, some true, some false⟩
  | .pixBit _ _ _ .dat => l.cs == some false && l.clk == some false && l.dat.isSome
  | .pixBit i j k .rise => l == ⟨dataOf m i j k, some false, some false⟩
  | .pixBit i j k .fall => l == ⟨dataOf m i j k, some true, some false⟩
  | .endDat => l.cs == some false && l.clk == some false && l.dat.isSome
  | .endClk _ .rise => l == ⟨some false, some false, some false⟩
  | .endClk _ .fall => l == ⟨some false, some true, some false⟩
  | .csHigh => l == ⟨some false, some false, some false⟩

/-- The invariant of the block. -/
structure BlockInv (s : State) : Prop where
  /-- Every brightness is at most 31 (spec/10_state.md R22), and there are at most `2^32` pixels (spec/00_scope.md
  R7). -/
  memory : s.buf.wf = true
  /-- The line numbers are distinct (spec/00_scope.md R7). -/
  config : s.cfg.wf = true
  /-- The position is in range (spec/10_state.md R27). -/
  position : s.pos.wf s.cfg.endFramePulses s.buf.length = true
  /-- The lines are as the position says. -/
  lines : linesFit s.buf s.pos s.level = true
  /-- A command is transmitting exactly while the sequencer is not at Idle (spec/10_state.md R28). -/
  running : s.running.isSome = s.busy
  /-- A transmission holds the lines (spec/42_serializer.md R166). -/
  held : s.busy = true → s.initialized = true
  /-- A line that is not held is not driven (spec/10_state.md R24). -/
  unheld : s.initialized = false → s.level = Levels.unknown
  /-- A retired block holds no line (spec/41_device_ops.md R141). -/
  retired : s.released = true → s.initialized = false
  /-- A fault is raised only while no command transmits (spec/60_exceptions.md R209). -/
  precise : s.halted = true → s.busy = false

/-- `k` steps, stopping at the first that answers no next state. -/
def steps : Nat → State → Result
  | 0, s => .next s
  | k + 1, s =>
    match step s with
    | .next t => steps k t
    | .fault v => .fault v
    | .refused v => .refused v

/-- The good end of a run: the host has issued its last command, and it has returned
(spec/70_reset_and_hazards.md R252). -/
def State.finished (s : State) : Bool := s.port.isEmpty && s.ready

end Sys2Proof.Machine
end

