-- ==== Sys2Proof/Certificates/Slice0/Obligations.lean ====
section
/-! DEFINITION. The statements about the model, each from the rules of spec/ that its docstring names. Statements only:
nothing is proved here. -/

namespace Sys2Proof.Stated

open Sys2Proof.Machine

/-! ### Words the statements use -/

/-- A command may start, and the block is not retired. -/
def Accepting (s : State) : Prop := s.fault = none ∧ s.pos = .idle ∧ s.released = false

/-- `val(bri)` as spec/30_encoding.md R77 writes it, a rational; none for a NaN or an infinity. -/
def binVal (b : Binary32) : Option ℚ :=
  let sign : ℚ := if b.getLsbD 31 then -1 else 1
  let e := (b.extractLsb' 23 8).toNat
  let f := (b.extractLsb' 0 23).toNat
  if e = 255 then none
  else if e = 0 then some (sign * f * (2 : ℚ) ^ (-149 : ℤ))
  else some (sign * (2 ^ 23 + f) * (2 : ℚ) ^ ((e : ℤ) - 150))

/-- The contract on a brightness: not NaN and `0 <= val <= 1` (spec/30_encoding.md R77). -/
def InContract (b : Binary32) : Prop := ∃ v, binVal b = some v ∧ 0 ≤ v ∧ v ≤ 1

/-- The rational is a binary32 number, its size aside: a 24-bit significand over a unit of at least `2^(-149)`. -/
def IsBinary32 (x : ℚ) : Prop := ∃ (m : ℕ) (e : ℤ), m < 2 ^ 24 ∧ -149 ≤ e ∧ x = m * (2 : ℚ) ^ e

/-- As `IsBinary32`, with an even significand. -/
def IsEvenBinary32 (x : ℚ) : Prop := ∃ (m : ℕ) (e : ℤ), Even m ∧ m < 2 ^ 24 ∧ -149 ≤ e ∧ x = m * (2 : ℚ) ^ e

/-- `p` is `x` rounded to the nearest binary32 number, ties to even (spec/40_strip_ops.md R101). -/
def NearestEven (x p : ℚ) : Prop :=
  IsBinary32 p ∧ (∀ y, IsBinary32 y → |p - x| ≤ |y - x|) ∧
    ((∃ y, IsBinary32 y ∧ y ≠ p ∧ |y - x| = |p - x|) → IsEvenBinary32 p)

/-- The state with its port's first word taken. -/
def took (s : State) (rest : List Word) : State := { s with port := rest }

/-- The state a lazy setup that succeeds leaves: as it was where the lines were held, else asked once and holding
them (spec/41_device_ops.md R131, R132). -/
def settled (s : State) : State := if s.initialized then s else s.ask.hold

/-- SET_PIXEL with the same operands at each index of a list in turn, stopping where one faults. -/
def setPixels (r g b : Byte) (bright : Binary32) : List Nat → State → Result
  | [], s => .next s
  | i :: rest, s =>
    match exec (.setPixel (BitVec.ofNat 32 i) r g b bright) s with
    | .next t => if t.halted then .next t else setPixels r g b bright rest t
    | .fault v => .fault v
    | .refused v => .refused v

/-- The state without what the spec says no command reads: the latches and the trace. -/
def unseen (s : State) : State := { s with level := Levels.unknown, trace := [] }

/-- The outcome without it. -/
def unseenOutcome : Result → Result
  | .next s => .next (unseen s)
  | .fault v => .fault v
  | .refused v => .refused v

/-- The word at the front of the port is INIT's or SHOW's. -/
def AcquiringWord (s : State) : Prop :=
  ∃ w rest, s.port = w :: rest ∧ (decode w = .cmd .init ∨ decode w = .cmd .showStrip)

/-- The word at the front of the port is SHOW's or SHUTDOWN's. -/
def TransmittingWord (s : State) : Prop :=
  ∃ w rest, s.port = w :: rest ∧ (decode w = .cmd .showStrip ∨ decode w = .cmd .shutdown)

/-- The brightness operand of a command that has one. -/
def brightnessOf : Instr → Option Binary32
  | .init => none
  | .setPixel _ _ _ _ bright => some bright
  | .setAll _ _ _ bright => some bright
  | .setBrightness bright => some bright
  | .clear => none
  | .showStrip => none
  | .shutdown => none

/-- The command is one of the four that change the pixel buffer. -/
def IsBufferCommand : Instr → Prop
  | .init => False
  | .setPixel _ _ _ _ _ => True
  | .setAll _ _ _ _ => True
  | .setBrightness _ => True
  | .clear => True
  | .showStrip => False
  | .shutdown => False

/-- The sixteen binary32 inputs of spec/95_test_vectors.md V1, each with the brightness the exact mode gives. -/
def listedInputs : List (Binary32 × Nat) := [
  (0x3C842108, 0), (0x3D46318C, 1), (0x3DA5294A, 2), (0x3DE739CE, 3), (0x3E14A529, 4), (0x3E35AD6B, 5),
  (0x3E56B5AD, 6), (0x3E77BDEF, 7), (0x3F084210, 16), (0x3F108421, 17), (0x3F210842, 19), (0x3F318C63, 21),
  (0x3F421084, 23), (0x3F5294A5, 25), (0x3F6318C6, 27), (0x3F739CE7, 29)]

end Sys2Proof.Stated

open Sys2Proof Sys2Proof.Machine Sys2Proof.Stated

/-! ### Reset and the invariant -/

/-- Construction makes `N` pixels of all zeros, holds no line and leaves the sequencer at Idle, for every pixel count
and configuration (spec/10_state.md R40, R41, R44). -/
def Obligations.ConstructionZeroesTheBuffer : Prop :=
  ∀ (cfg : Config) (n : Nat),
    (State.construct cfg n).buf.length = n ∧
      (∀ i, i < n → memRead (State.construct cfg n).buf i = some ⟨0, 0, 0, 0⟩) ∧
      (State.construct cfg n).initialized = false ∧ (State.construct cfg n).pos = .idle

/-- Construction leaves the configuration as given, no line driven, no block retired, no fault and no pin event
(spec/70_reset_and_hazards.md section 1; the spec's own choices D9, D11, D17, D27). -/
def Obligations.ConstructionLeavesNothingElse : Prop :=
  ∀ (cfg : Config) (n : Nat),
    (State.construct cfg n).cfg = cfg ∧ (∀ p : Line, (State.construct cfg n).level.get p = none) ∧
      (State.construct cfg n).released = false ∧ (State.construct cfg n).fault = none ∧
      (State.construct cfg n).trace = []

/-- The invariant holds after a construction with distinct line numbers and a pixel count that the index field covers
(spec/00_scope.md R7), and so at reset. That reset has eight pixels is the model's choice: log entry 1. -/
def Obligations.InvariantHoldsAtConstruction : Prop :=
  (∀ (cfg : Config) (n : Nat), cfg.wf = true → n ≤ 2 ^ 32 → BlockInv (State.construct cfg n)) ∧ BlockInv State.reset

/-- Every step keeps the invariant: brightness at most 31 and the buffer's size (spec/10_state.md R22, R21), distinct
lines, positions in range (R27), levels as the position says (spec/42_serializer.md R178 to R180), the handle held while
transmitting (R166), no level where the lines are not held (spec/10_state.md R24), faults only at Idle
(spec/60_exceptions.md R209). -/
def Obligations.StepKeepsInvariant : Prop :=
  ∀ s t : State, BlockInv s → step s = .next t → BlockInv t

/-- From every state that meets the invariant a block without a recorded fault takes a step that answers a next
state; and no step of any state is refused. A transmission, once started, cannot fail (spec/41_device_ops.md R136,
R144). -/
def Obligations.UnfaultedBlockAlwaysSteps : Prop :=
  (∀ s : State, BlockInv s → s.fault = none → ∃ t, step s = .next t) ∧ ∀ (s : State) (r : Refusal), step s ≠ .refused r

/-! ### Encoding -/

/-- Decoding the word of a command gives the command, every operand at every value (spec/30_encoding.md section 1).
The command word is the spec's own choice: D2, D3, D4 of spec/92_eei_decisions.md. -/
def Obligations.DecodeInvertsEncode : Prop := ∀ i : Instr, decode (encode i) = .cmd i

/-- A word that decodes to a command is that command's word: no two legal words decode to the same one
(spec/30_encoding.md section 1). The command word is the spec's own choice: D2, D3, D4. -/
def Obligations.EncodeInvertsDecode : Prop := ∀ (w : Word) (i : Instr), decode w = .cmd i → encode i = w

/-- The legal words are those of the seven rows of the opcode table; the rows do not overlap; the opcode byte selects
the command; every other word is IllegalCommand (spec/30_encoding.md R86). The spec's own choice: D2, D3, D4. -/
def Obligations.LegalWordsAreTableRows : Prop :=
  opcodeRows.length = 7 ∧
  (∀ w : Word, legalWord w = true ↔ ∃ i, decode w = .cmd i) ∧
  (∀ w : Word, legalWord w = false → ∃ why, decode w = .illegal why) ∧
  (∀ (w : Word) (i : Instr), decode w = .cmd i → opcodeOf i = w.extractLsb' 120 8) ∧
  opcodeRows.Pairwise fun a b => ∀ w : Word, ¬ (a.fits w = true ∧ b.fits w = true)

/-- A reserved opcode, a reserved field that is not zero, or an unused field that is not zero, is IllegalCommand,
code 1, with the whole word; nothing else is written (spec/30_encoding.md R73, R74; spec/60_exceptions.md R202). The
spec's own choice: D4, D25. -/
def Obligations.IllegalWordIsRecorded : Prop :=
  ∀ (s : State) (w : Word) (rest : List Word), s.fault = none → s.pos = .idle → s.port = w :: rest →
    (w.extractLsb' 120 8 = 0 ∨ 8 ≤ (w.extractLsb' 120 8).toNat ∨ w.extractLsb' 96 24 ≠ 0 ∨ w.extractLsb' 24 8 ≠ 0 ∨
      ((w.extractLsb' 120 8 = 1 ∨ w.extractLsb' 120 8 = 5 ∨ w.extractLsb' 120 8 = 6 ∨ w.extractLsb' 120 8 = 7) ∧
        w.extractLsb' 0 96 ≠ 0) ∨
      (w.extractLsb' 120 8 = 3 ∧ w.extractLsb' 64 32 ≠ 0) ∨
      (w.extractLsb' 120 8 = 4 ∧ (w.extractLsb' 64 32 ≠ 0 ∨ w.extractLsb' 0 24 ≠ 0))) →
    step s = .next ((took s rest).withFault (.illegalCommand w)) ∧ (Violation.illegalCommand w).code = 1

/-- A word moved as bytes is big-endian, byte 0 its bits [127:120] and byte 15 its bits [7:0]; the brightness operand
is its bits [63:32], bit 63 the sign (spec/20_memory.md R54). The spec's own choice: D22, D5. -/
def Obligations.CarrierIsBigEndian : Prop :=
  ∀ w : Word, (bytesOfWord w).length = 16 ∧
    (∀ n, n < 16 → (bytesOfWord w)[n]? = some (w.extractLsb' (120 - 8 * n) 8)) ∧
    wordOfBytes (bytesOfWord w) = some w ∧
    (∀ b, decode w = .cmd (.setBrightness b) → b = w.extractLsb' 32 32 ∧ binSign b = w.getLsbD 63)

/-- The seven sample words of spec/95_test_vectors.md V2 decode as it says, and three of its illegal ones do not.
The spec's own choice: D2, D3, D4. -/
def Obligations.SampleWordsDecode : Prop :=
  decode 0x01000000000000000000000000000000 = .cmd .init ∧
  decode 0x02000000000000003f800000007bea0c = .cmd (.setPixel 0 123 234 12 0x3F800000) ∧
  decode 0x03000000000000003f80000000ff0000 = .cmd (.setAll 255 0 0 0x3F800000) ∧
  decode 0x04000000000000003f00000000000000 = .cmd (.setBrightness 0x3F000000) ∧
  decode 0x05000000000000000000000000000000 = .cmd .clear ∧
  decode 0x06000000000000000000000000000000 = .cmd .showStrip ∧
  decode 0x07000000000000000000000000000000 = .cmd .shutdown ∧
  (∀ i, decode 0x08000000000000000000000000000000 ≠ .cmd i) ∧
  (∀ i, decode 0x03000000000000013f80000000000000 ≠ .cmd i) ∧
  (∀ i, decode 0x02000001000000003f80000000000000 ≠ .cmd i)

/-! ### Steps -/

/-- When the next word of the host decodes to a command, a step of an idle block takes the word from the port and is
that command. The port as a list in State is the model's: log entry 6. -/
def Obligations.StepRunsDecodedCommand : Prop :=
  ∀ (s : State) (w : Word) (rest : List Word) (i : Instr), s.fault = none → s.pos = .idle → s.port = w :: rest →
    decode w = .cmd i → step s = exec i (took s rest)

/-- While a fault is recorded no command runs and the block has no step (spec/60_exceptions.md section 1); that the
model answers the fault `halted` is its own form: log entry 10. The spec's own choice: D9. -/
def Obligations.HaltedBlockTakesNoStep : Prop :=
  ∀ (s : State) (v : Violation), s.fault = some v →
    step s = .fault (.halted v) ∧ ∀ i : Instr, exec i s = .fault (.halted v)

/-- Between commands the block is idle and all state survives (spec/60_exceptions.md section 6; the spec's own choice
D36). That such a block has a step, which answers the same state, and that an empty `port` stands for a host that issues
nothing, is the model's form: log entry 6, DESIGN CHOICE. -/
def Obligations.IdleBlockKeepsItsState : Prop :=
  ∀ s : State, s.fault = none → s.pos = .idle → s.port = [] → step s = .next s

/-- While a command transmits no word is taken from the port and no command is given a meaning
(spec/20_memory.md section 3). That the model refuses is its own form: log entry 11. The spec's own choice: D19. -/
def Obligations.TransmissionTakesNoCommand : Prop :=
  ∀ s : State, s.fault = none → s.pos ≠ .idle →
    (∀ t, step s = .next t → t.port = s.port ∧ t.buf = s.buf) ∧ ∀ i : Instr, exec i s = .refused .portBusy

/-- Every step of a transmission makes exactly one pin write, appended to the trace as an event of its own whatever
the line's level was, and drives its line to that level, the other two lines left alone (spec/20_memory.md section 3;
spec/42_serializer.md section 1). At the end of SHUTDOWN the lines are released in the same step: log entry 9. The
spec's own choice: D12, D27. -/
def Obligations.PinWriteIsRecordedAndDriven : Prop :=
  ∀ s t : State, s.pos ≠ .idle → step s = .next t →
    ∃ e : PinEvent, writeAt s.buf s.pos = some e ∧ t.trace = s.trace ++ [e] ∧
      (t.pos = .idle ∧ s.running = some .shuttingDown ∧ t.level = Levels.unknown ∨
        t.level.get e.1 = some e.2 ∧ ∀ p, p ≠ e.1 → t.level.get p = s.level.get p)

/-- What never goes back: the configuration and the number of pixels stay, `released` is never cleared, no step
follows a fault, the trace only grows, by at most one event a step and only while the sequencer is away from Idle
(spec/10_state.md sections 1, 2, 3 and 5). The spec's own choice: D9, D17, D27. -/
def Obligations.OneWayState : Prop :=
  ∀ s t : State, step s = .next t →
    t.cfg = s.cfg ∧ t.buf.length = s.buf.length ∧ (s.released = true → t.released = true) ∧ s.fault = none ∧
      (t.trace = s.trace ∨ s.pos ≠ .idle ∧ ∃ e, t.trace = s.trace ++ [e])

/-- The "pins initialized" flag is set only by a successful acquisition, which only INIT and SHOW make, and cleared
only by SHUTDOWN when it releases the lines (spec/10_state.md section 3; spec/41_device_ops.md section 4). The
spec's own choice: D10, D17. -/
def Obligations.HandleChangesOnlyByAcquisitionAndShutdown : Prop :=
  ∀ s t : State, step s = .next t →
    (s.initialized = false → t.initialized = true →
      s.pos = .idle ∧ nextAnswer s = .success ∧ AcquiringWord s) ∧
    (s.initialized = true → t.initialized = false →
      s.pos = .csHigh ∧ s.running = some .shuttingDown ∧ t.released = true)

/-- Setup is idempotent: the platform is asked only while the lines are not held, at most once a step, and only by INIT
and SHOW; each of these asks once while the lines are not held, never while they are; and after a success they are held
(spec/41_device_ops.md section 1). That only INIT and SHOW ask rests on the spec's own choices D17 (SHUTDOWN never
acquires) and D34 (INIT), the answers on D10; that an answer is the head of `answers` and a request takes it off is the
model's form of the draw: log entry 4, DESIGN CHOICE. -/
def Obligations.SetupIsIdempotent : Prop :=
  (∀ s t : State, step s = .next t → t.asked ≠ s.asked →
    s.initialized = false ∧ t.asked = s.asked + 1 ∧ AcquiringWord s ∧
      (nextAnswer s = .success → t.initialized = true)) ∧
  (∀ (i : Instr) (s t : State), s.initialized = true → exec i s = .next t →
    t.asked = s.asked ∧ t.answers = s.answers) ∧
  ∀ (i : Instr) (s : State), i = .init ∨ i = .showStrip → Accepting s → s.initialized = false →
    ∃ t, exec i s = .next t ∧ t.asked = s.asked + 1 ∧ t.answers = s.answers.tail

/-- A step gives at most one status, and a device error only for a failed acquisition by INIT or SHOW, with the
platform's own error, so none once the lines are held; and every failed acquisition is reported so
(spec/41_device_ops.md R144). -/
def Obligations.DeviceErrorOnlyFromAcquisition : Prop :=
  (∀ s t : State, step s = .next t →
    t.replies = s.replies ∨ t.replies = s.replies ++ [.ok] ∨
      ∃ e, t.replies = s.replies ++ [.deviceError e] ∧ s.initialized = false ∧ nextAnswer s = .failure e ∧
        AcquiringWord s ∧ t.initialized = false ∧ t.trace = s.trace) ∧
  ∀ (i : Instr) (s : State) (e : PlatformError), i = .init ∨ i = .showStrip → Accepting s → s.initialized = false →
    nextAnswer s = .failure e → ∃ t, exec i s = .next t ∧ t.replies = s.replies ++ [.deviceError e]

/-- Faults are precise: a step that records one was taken at Idle and wrote nothing else, the taken word aside; a
faulting command leaves the buffer unchanged (spec/60_exceptions.md section 4; spec/20_memory.md section 3). The
spec's own choice: D8, D9. -/
def Obligations.FaultsArePrecise : Prop :=
  ∀ (s t : State) (v : Violation), step s = .next t → t.fault = some v →
    s.pos = .idle ∧ t.pos = .idle ∧ ∃ w rest, s.port = w :: rest ∧ t = (took s rest).withFault v

/-- No command and no step reads a line level or the trace: from two states that differ in nothing else, the outcomes
differ in nothing else (spec/10_state.md sections 3 and 5). The spec's own choice: D11, D27. -/
def Obligations.LatchesAndTraceAreUnread : Prop :=
  (∀ s : State, unseenOutcome (step s) = unseenOutcome (step (unseen s))) ∧
  ∀ (i : Instr) (s : State), unseenOutcome (exec i s) = unseenOutcome (exec i (unseen s))

/-! ### The brightness operand -/

/-- The model's reading of a binary32 is the value of spec/30_encoding.md R77, in units of `2^(-149)`, and a pattern
meets the contract exactly when it is 0x00000000 to 0x3F800000 or 0x80000000. The spec's own choice: D5, D32; the
format is general knowledge there (G1): log entry 13. -/
def Obligations.BrightnessReadingIsBinary32 : Prop :=
  ∀ b : Binary32,
    (∀ u, contractUnits b = some u → binVal b = some ((u : ℚ) / 2 ^ 149)) ∧
    ((contractUnits b).isSome = true ↔ InContract b) ∧
    (InContract b ↔ b.toNat ≤ 0x3F800000 ∨ b = 0x80000000)

/-- `quantize` faults exactly outside the contract; inside it the exact mode gives `floor(31 * val + 1/2)`, the
binary32 mode the same of the product rounded to the nearest binary32, ties to even; the result is at most 31
(spec/40_strip_ops.md R101). The spec's own choice: D6; log entry 13. -/
def Obligations.QuantizeIsRoundedProduct : Prop :=
  ∀ b : Binary32,
    (¬ InContract b → ∀ mode, quantize mode b = none) ∧
    ∀ v, binVal b = some v → 0 ≤ v → v ≤ 1 →
      (∃ q, quantize .exact b = some q ∧ q.toNat ≤ 31 ∧ (q.toNat : ℤ) = ⌊31 * v + 1 / 2⌋) ∧
      (∃ q, quantize .binary32 b = some q ∧ q.toNat ≤ 31 ∧
        ∃ p, NearestEven (31 * v) p ∧ (q.toNat : ℤ) = ⌊p + 1 / 2⌋)

/-- The properties of spec/40_strip_ops.md R102: the endpoints, monotone, every value reached, in both modes; and the
only exact tie is 0.5, which gives 16. Inferences of the spec from its choice D6. -/
def Obligations.QuantizeProperties : Prop :=
  (∀ mode, quantize mode 0x00000000 = some 0 ∧ quantize mode 0x80000000 = some 0 ∧
    quantize mode 0x3F800000 = some 31) ∧
  (∀ mode b c x y p q, binVal b = some x → binVal c = some y → x ≤ y → quantize mode b = some p →
    quantize mode c = some q → p.toNat ≤ q.toNat) ∧
  (∀ mode, ∀ k : Nat, k ≤ 31 → ∃ b, quantize mode b = some (BitVec.ofNat 8 k)) ∧
  (∀ b v, binVal b = some v → 0 ≤ v → v ≤ 1 → ∀ k : ℤ, 31 * v = k + 1 / 2 → b = 0x3F000000) ∧
  quantize .exact 0x3F000000 = some 16

/-- On each of the sixteen inputs of spec/95_test_vectors.md V1 the two modes differ as its table says. The spec's
own choice: D6. -/
def Obligations.ModesDifferOnListedInputs : Prop :=
  ∀ x ∈ listedInputs,
    quantize .exact x.1 = some (BitVec.ofNat 8 x.2) ∧ quantize .binary32 x.1 = some (BitVec.ofNat 8 (x.2 + 1))

/-- A brightness that is NaN, below 0 or above 1 is the fault BrightnessOutOfRange, code 3, with the pattern, in each
of the three commands that take one, and in no other; nothing else is written; 0x3F800001 is such a pattern
(spec/60_exceptions.md section 2). The spec's own choices: D5 (binary32; log entry 13), D7 (SET_BRIGHTNESS checks, and
SET_ALL with no pixel), D8 (brightness before index, so the SET_PIXEL clause holds for every index; a claim must not rest
on which cause a doubly illegal command reports), D9 (what a violation does), D25 (the code); log entry 18. -/
def Obligations.BrightnessOutOfRangeIsRecorded : Prop :=
  (∀ (s : State) (bright : Binary32), Accepting s → ¬ InContract bright →
    (∀ index r g b, exec (.setPixel index r g b bright) s = .next (s.withFault (.brightnessOutOfRange bright))) ∧
    (∀ r g b, exec (.setAll r g b bright) s = .next (s.withFault (.brightnessOutOfRange bright))) ∧
    exec (.setBrightness bright) s = .next (s.withFault (.brightnessOutOfRange bright)) ∧
    (Violation.brightnessOutOfRange bright).code = 3) ∧
  (∀ (i : Instr) (s t : State) (bright : Binary32), exec i s = .next t →
    t.fault = some (.brightnessOutOfRange bright) → brightnessOf i = some bright ∧ ¬ InContract bright) ∧
  ¬ InContract 0x3F800001

/-! ### The buffer commands -/

/-- SET_PIXEL with a brightness in contract and an index in range writes the four fields of its record, and no other
record, and returns Ok, and nothing else changes; a SET_PIXEL that faults writes no other record either
(spec/40_strip_ops.md R104 and section 2). -/
def Obligations.SetPixelWritesItsRecord : Prop :=
  (∀ (s : State) (index : Index) (r g b : Byte) (bright : Binary32) (q : Byte), Accepting s →
    quantize s.cfg.quantMode bright = some q → index.toNat < s.buf.length →
    ∃ m : Memory,
      exec (.setPixel index r g b bright) s = .next { s with buf := m, replies := s.replies ++ [.ok] } ∧
      m.length = s.buf.length ∧ memRead m index.toNat = some ⟨r, g, b, q⟩ ∧
      ∀ k, k ≠ index.toNat → memRead m k = memRead s.buf k) ∧
  ∀ (s t : State) (index : Index) (r g b : Byte) (bright : Binary32), exec (.setPixel index r g b bright) s = .next t →
    ∀ k, k ≠ index.toNat → memRead t.buf k = memRead s.buf k

/-- SET_PIXEL with an index of `N` or more is the fault IndexOutOfRange, code 4, with the index, and nothing else is
written; no other command raises it (spec/60_exceptions.md R203). -/
def Obligations.IndexOutOfRangeIsRecorded : Prop :=
  (∀ (s : State) (index : Index) (r g b : Byte) (bright : Binary32), Accepting s → InContract bright →
    s.buf.length ≤ index.toNat →
    exec (.setPixel index r g b bright) s = .next (s.withFault (.indexOutOfRange index)) ∧
      (Violation.indexOutOfRange index).code = 4) ∧
  ∀ (i : Instr) (s t : State) (index : Index), exec i s = .next t → t.fault = some (.indexOutOfRange index) →
    s.buf.length ≤ index.toNat ∧ ∃ r g b bright, i = .setPixel index r g b bright

/-- SET_ALL with a brightness in contract writes every record with the one colour and brightness and returns Ok;
nothing else changes (spec/40_strip_ops.md section 3). -/
def Obligations.SetAllWritesEveryRecord : Prop :=
  ∀ (s : State) (r g b : Byte) (bright : Binary32) (q : Byte), Accepting s →
    quantize s.cfg.quantMode bright = some q →
    ∃ m : Memory,
      exec (.setAll r g b bright) s = .next { s with buf := m, replies := s.replies ++ [.ok] } ∧
      m.length = s.buf.length ∧ ∀ k, k < s.buf.length → memRead m k = some ⟨r, g, b, q⟩

/-- For `N >= 1` SET_ALL has the effect of SET_PIXEL with the same colour and brightness at every index in order, the
faulting case included (spec/40_strip_ops.md R107); only the number of Oks the host is given differs. The faulting
case is an inference of the spec. -/
def Obligations.SetAllIsSetPixelEverywhere : Prop :=
  ∀ (s : State) (r g b : Byte) (bright : Binary32), Accepting s → 1 ≤ s.buf.length → s.buf.length ≤ 2 ^ 32 →
    ∃ t u : State, exec (.setAll r g b bright) s = .next t ∧
      setPixels r g b bright (List.range s.buf.length) s = .next u ∧
      { u with replies := t.replies } = t

/-- With no pixel SET_ALL still checks its brightness: it faults outside the contract, and inside it changes nothing
(spec/40_strip_ops.md R108). The spec's own choice: D7. -/
def Obligations.EmptySetAllChecksBrightness : Prop :=
  ∀ (s : State) (r g b : Byte) (bright : Binary32), Accepting s → s.buf = [] →
    (¬ InContract bright → exec (.setAll r g b bright) s = .next (s.withFault (.brightnessOutOfRange bright))) ∧
    (InContract bright → exec (.setAll r g b bright) s = .next { s with replies := s.replies ++ [.ok] }) ∧
    setPixels r g b bright (List.range s.buf.length) s = .next s

/-- SET_BRIGHTNESS with a brightness in contract writes the brightness of every record, leaves every colour, and
returns Ok, and nothing else changes; one that faults leaves the colours as well (spec/40_strip_ops.md R110 and
section 4). -/
def Obligations.SetBrightnessKeepsColours : Prop :=
  (∀ (s : State) (bright : Binary32) (q : Byte), Accepting s → quantize s.cfg.quantMode bright = some q →
    ∃ m : Memory,
      exec (.setBrightness bright) s = .next { s with buf := m, replies := s.replies ++ [.ok] } ∧
      m.length = s.buf.length ∧
      ∀ k p, memRead s.buf k = some p → memRead m k = some ⟨p.red, p.green, p.blue, q⟩) ∧
  ∀ (s t : State) (bright : Binary32), exec (.setBrightness bright) s = .next t →
    ∀ k p, memRead s.buf k = some p → ∃ q, memRead t.buf k = some ⟨p.red, p.green, p.blue, q⟩

/-- CLEAR zeroes the colour of every record, leaves every brightness, and returns Ok, and nothing else changes; one that
faults leaves the brightness as well (spec/40_strip_ops.md R113 and section 5). -/
def Obligations.ClearKeepsBrightness : Prop :=
  (∀ s : State, Accepting s →
    ∃ m : Memory,
      exec .clear s = .next { s with buf := m, replies := s.replies ++ [.ok] } ∧
      m.length = s.buf.length ∧ ∀ k p, memRead s.buf k = some p → memRead m k = some ⟨0, 0, 0, p.brightness⟩) ∧
  ∀ s t : State, exec .clear s = .next t →
    ∀ k p, memRead s.buf k = some p → ∃ q, memRead t.buf k = some q ∧ q.brightness = p.brightness

/-- The four buffer commands never acquire, never write a pin, never change `initialized`, the levels, the position or
the trace, and never return a device error; a pin is written only by a transmission, and a transmission begins only
with SHOW, or with SHUTDOWN (spec/40_strip_ops.md section 6). That SHUTDOWN transmits is the spec's own choice D17, log
entry 18; its section 6 names only SHOW. -/
def Obligations.BufferCommandsLeaveLinesAlone : Prop :=
  (∀ (i : Instr) (s t : State), IsBufferCommand i → exec i s = .next t →
    t.initialized = s.initialized ∧ t.level = s.level ∧ t.pos = s.pos ∧ t.trace = s.trace ∧ t.running = s.running ∧
      t.asked = s.asked ∧ t.answers = s.answers ∧ (t.replies = s.replies ∨ t.replies = s.replies ++ [.ok])) ∧
  ∀ s t : State, step s = .next t →
    (t.trace ≠ s.trace → s.pos ≠ .idle) ∧ (s.pos = .idle → t.pos ≠ .idle → TransmittingWord s)

/-! ### The device commands -/

/-- INIT returns Ok and asks nothing where the lines are held; else it asks once, and a success holds the lines and
returns Ok, a failure returns the platform's error; no level and no trace is written (spec/41_device_ops.md section
2). The spec's own choice: D10, D11, D34; the form of the platform's answers: log entry 4. -/
def Obligations.InitAcquiresTheLines : Prop :=
  ∀ s : State, Accepting s →
    (s.initialized = true → exec .init s = .next { s with replies := s.replies ++ [.ok] }) ∧
    (s.initialized = false → nextAnswer s = .success →
      exec .init s = .next { s.ask with initialized := true, replies := s.replies ++ [.ok] }) ∧
    (∀ e, s.initialized = false → nextAnswer s = .failure e →
      exec .init s = .next { s.ask with replies := s.replies ++ [.deviceError e] })

/-- A SHOW whose setup fails returns the platform's error and changes nothing else, the asking aside
(spec/41_device_ops.md R138). The spec's own choice: D10; the form of the platform's answers: log entry 4. -/
def Obligations.FailedShowChangesNothing : Prop :=
  ∀ (s : State) (e : PlatformError), Accepting s → s.initialized = false → nextAnswer s = .failure e →
    ∃ t : State, exec .showStrip s = .next t ∧ t = { s.ask with replies := s.replies ++ [.deviceError e] } ∧
      t.trace = s.trace ∧ t.buf = s.buf ∧ t.initialized = false ∧ t.level = s.level ∧ t.pos = s.pos ∧
      t.released = s.released ∧ t.fault = s.fault

/-- SHOW with the lines held, or acquired now, begins its transmission: nothing is written but the handle, the
position, and the record of what transmits (spec/41_device_ops.md section 3; the record: log entry 8). The spec's
own choice: D10, D27; the form of the platform's answers: log entry 4. -/
def Obligations.ShowBeginsTransmission : Prop :=
  ∀ s : State, Accepting s → (s.initialized = true ∨ nextAnswer s = .success) →
    exec .showStrip s = .next { settled s with pos := .csLow, running := some .showing }

/-- A SHOW that passed setup runs to completion: so many steps later as `Transmit()` has pin writes, and at no earlier
one, the block is at Idle again, the buffer as it was, the trace longer by exactly the pin writes of `Transmit()` for the
buffer as it stood, the lines at rest, and Ok returned (spec/41_device_ops.md section 3). The spec's own choice:
D12, D27; the last write and the return are one step: log entry 9; the form of the
platform's answers: log entry 4. -/
def Obligations.ShowRunsToCompletion : Prop :=
  ∀ s : State, Accepting s → (s.initialized = true ∨ nextAnswer s = .success) →
    let es := transmitEvents s.cfg.endFramePulses s.buf
    ∃ t, exec .showStrip s = .next t ∧
      (∀ k, k < es.length → ∃ u, steps k t = .next u ∧ u.pos ≠ .idle) ∧
      steps es.length t = .next { settled s with
        running := none, level := ⟨some false, some false, some true⟩, trace := s.trace ++ es,
        replies := s.replies ++ [.ok] }

/-- SHUTDOWN zeroes every colour and keeps every brightness; with the lines held it begins the transmission of the
blanked buffer, without them it releases and retires at once, writing no pin and asking nothing
(spec/41_device_ops.md section 4). The spec's own choice: D17. -/
def Obligations.ShutdownBlanksTheBuffer : Prop :=
  ∀ s : State, Accepting s →
    ∃ m : Memory, m.length = s.buf.length ∧
      (∀ k p, memRead s.buf k = some p → memRead m k = some ⟨0, 0, 0, p.brightness⟩) ∧
      (s.initialized = true →
        exec .shutdown s = .next { s with buf := m, pos := .csLow, running := some .shuttingDown }) ∧
      (s.initialized = false →
        exec .shutdown s = .next { s with
          buf := m, level := ⟨none, none, none⟩, released := true, replies := s.replies ++ [.ok] })

/-- A SHUTDOWN with the lines held transmits the blanked buffer, then releases the lines, retires the block and
returns Ok (spec/41_device_ops.md section 4). The spec's own choice: D17; the last write and the release are one
step: log entry 9. -/
def Obligations.ShutdownRunsToCompletion : Prop :=
  ∀ s : State, Accepting s → s.initialized = true →
    let m := memBlank s.buf
    let es := transmitEvents s.cfg.endFramePulses m
    ∃ t, exec .shutdown s = .next t ∧
      (∀ k, k < es.length → ∃ u, steps k t = .next u ∧ u.pos ≠ .idle) ∧
      steps es.length t = .next { s with
        buf := m, initialized := false, level := ⟨none, none, none⟩, released := true, running := none,
        trace := s.trace ++ es, replies := s.replies ++ [.ok] }

/-- After SHUTDOWN every command is the fault UseAfterShutdown, code 2, with its opcode; nothing else is written
(spec/60_exceptions.md R204). The spec's own choice: D18, D25. -/
def Obligations.UseAfterShutdownIsRecorded : Prop :=
  ∀ (i : Instr) (s : State), s.fault = none → s.pos = .idle → s.released = true →
    exec i s = .next (s.withFault (.useAfterShutdown (opcodeOf i))) ∧
      (Violation.useAfterShutdown (opcodeOf i)).code = 2

/-- When several checks of one command fail, only the first is recorded: IllegalCommand, UseAfterShutdown,
BrightnessOutOfRange, IndexOutOfRange (spec/60_exceptions.md R208). The spec's own choice: D8. -/
def Obligations.FirstFailingCheckIsReported : Prop :=
  (∀ (s : State) (w : Word) (rest : List Word), s.fault = none → s.pos = .idle → s.port = w :: rest →
    legalWord w = false → step s = .next ((took s rest).withFault (.illegalCommand w))) ∧
  (∀ (s : State) (w : Word) (rest : List Word) (i : Instr), s.fault = none → s.pos = .idle → s.released = true →
    s.port = w :: rest → decode w = .cmd i →
    step s = .next ((took s rest).withFault (.useAfterShutdown (opcodeOf i)))) ∧
  (∀ (s : State) (index : Index) (r g b : Byte) (bright : Binary32), Accepting s → ¬ InContract bright →
    exec (.setPixel index r g b bright) s = .next (s.withFault (.brightnessOutOfRange bright))) ∧
  (∀ (s : State) (index : Index) (r g b : Byte) (bright : Binary32), Accepting s → InContract bright →
    s.buf.length ≤ index.toNat →
    exec (.setPixel index r g b bright) s = .next (s.withFault (.indexOutOfRange index)))

/-! ### The serializer -/

/-- `bit(v, k)` is bit `k` of the byte, and gives the source's table for 0b00010101 (spec/42_serializer.md R165). -/
def Obligations.BitExtraction : Prop :=
  (∀ (v : Byte) (k : Nat), bit v k = (((v >>> k) &&& 1) == 1)) ∧
  (List.range 8).map (bit 0b00010101) = [true, false, true, false, true, false, false, false]

/-- The mapper's four bytes in wire order are the 32-bit LED frame, read as one number most significant byte first; the
data levels of a pixel's payload are the frame's bits, most significant first (spec/30_encoding.md R82). -/
def Obligations.MapperBuildsLedFrame : Prop :=
  ∀ p : Pixel, p.brightness.toNat ≤ 31 →
    (ledFrame p).toNat = (0xE0 ||| p.brightness).toNat * 2 ^ 24 + p.blue.toNat * 2 ^ 16 + p.green.toNat * 2 ^ 8 +
      p.red.toNat ∧
    (ledFrame p).extractLsb' 29 3 = 0b111 ∧ ((ledFrame p).extractLsb' 24 5).toNat = p.brightness.toNat ∧
    frame p = [(ledFrame p).extractLsb' 24 8, (ledFrame p).extractLsb' 16 8, (ledFrame p).extractLsb' 8 8,
      (ledFrame p).extractLsb' 0 8] ∧
    (∀ j : Fin 4, (frame p)[j.val]? = some (byteOf p j)) ∧
    ((sendPixel p).filter fun e => e.1 == .dat).map (fun e => e.2) = frameBits (ledFrame p)

/-- Stepping from CsLow until Idle performs exactly the pin writes of `Transmit()`, in order, one a step; with 36 end
pulses that is `140 + 96 * N` steps (spec/42_serializer.md R175). The spec's own choice: D27, D14; an inference of
the spec. -/
def Obligations.SequencerPerformsTransmit : Prop :=
  ∀ s : State, s.fault = none → s.initialized = true → s.pos = .csLow →
    let es := transmitEvents s.cfg.endFramePulses s.buf
    (∀ k, k < es.length → ∃ u, steps k s = .next u ∧ u.pos ≠ .idle ∧ u.trace = s.trace ++ es.take k) ∧
    (∃ u, steps es.length s = .next u ∧ u.pos = .idle ∧ u.trace = s.trace ++ es) ∧
    (s.cfg.endFramePulses = 36 → es.length = 140 + 96 * s.buf.length)

/-- The event counts of one transaction (spec/42_serializer.md R177). An inference of the spec from its frames; 36
end pulses: D14. -/
def Obligations.TransactionEventCounts : Prop :=
  ∀ m : Memory,
    let es := transmitEvents 36 m
    es.length = 140 + 96 * m.length ∧
    es.count (.clk, true) = 68 + 32 * m.length ∧ es.count (.clk, false) = 68 + 32 * m.length ∧
    (es.countP fun e => e.1 == .dat) = 2 + 32 * m.length ∧
    es.filter (fun e => e.1 == .cs) = [(.cs, false), (.cs, true)] ∧
    es.head? = some (.cs, false) ∧ es.getLast? = some (.cs, true)

/-- With no pixel the transmission is chip-select low, start frame, end frame, chip-select high: 140 events and 68
rising clock edges where the clock was low (spec/41_device_ops.md R139). The spec's own choice: D33, D28; the counts
are its inference. -/
def Obligations.EmptyStripTransmission : Prop :=
  transmitEvents 36 [] = [(.cs, false)] ++ startFrame ++ endFrame 36 ++ [(.cs, true)] ∧
  (transmitEvents 36 []).length = 140 ∧
  wireBits false ⟨none, some false, none⟩ (transmitEvents 36 []) = List.replicate 68 (some false)

/-- After a transaction chip-select is high, clock and data are low, whatever the levels were before
(spec/42_serializer.md R178). An inference of the spec. -/
def Obligations.LevelsAfterTransaction : Prop :=
  ∀ s : State, (transmit s).level = ⟨some false, some false, some true⟩ ∧
    (transmit s).trace = s.trace ++ transmitEvents s.cfg.endFramePulses s.buf ∧
    ∃ pre, transmitEvents s.cfg.endFramePulses s.buf =
      pre ++ (.dat, false) :: pulses s.cfg.endFramePulses ++ [(.cs, true)]

/-- Within a transaction every data write comes right after the chip-select assert or right after a clock-low write,
and only the start frame's first after the former (spec/42_serializer.md section 5). An inference of the spec. -/
def Obligations.DataWrittenOnlyAfterClockLow : Prop :=
  ∀ (efp : Nat) (m : Memory) (pre post : List PinEvent) (v : Bool),
    transmitEvents efp m = pre ++ (.dat, v) :: post →
      pre = [(.cs, false)] ∧ v = false ∨ pre.getLast? = some (.clk, false)

/-- From every state that meets the invariant: a step that writes DAT is made while CLK is not high, and while CLK is
low but for the start frame's first write; a step that raises CLK is made with a known level on DAT and leaves it
(spec/42_serializer.md section 5). An inference of the spec. -/
def Obligations.DataSteadyWhileClockHigh : Prop :=
  ∀ (s t : State) (v : Bool), BlockInv s → step s = .next t →
    (t.trace = s.trace ++ [(.dat, v)] →
      s.level.clk ≠ some true ∧ (s.pos ≠ .startDat → s.level.clk = some false)) ∧
    (t.trace = s.trace ++ [(.clk, v)] → s.level.dat.isSome = true ∧ t.level.dat = s.level.dat)

/-- Chip-select changes only at the first write of a transaction, to low, and at its last, to high, or to released at
the end of SHUTDOWN; within a transaction's events no other one is on its line (spec/42_serializer.md section 5). An
inference of the spec; the release: D17. -/
def Obligations.ChipSelectFramesTheTransaction : Prop :=
  (∀ s t : State, BlockInv s → step s = .next t → t.level.cs ≠ s.level.cs →
    s.pos = .csLow ∧ t.level.cs = some false ∨
      s.pos = .csHigh ∧ s.level.cs = some false ∧ (t.level.cs = some true ∨ t.level.cs = none ∧ t.released = true)) ∧
  ∀ (efp : Nat) (m : Memory), ∃ mid, transmitEvents efp m = (.cs, false) :: mid ++ [(.cs, true)] ∧
    ∀ e ∈ mid, e.1 ≠ .cs

/-- The wire bits of a transaction: 32 zeros, the bits of each pixel's LED frame in buffer order, most significant
first, and the zeros of the end frame; where the clock was unknown, with or without the first bit as the first clock
write is read (spec/42_serializer.md section 5; spec/70_reset_and_hazards.md section 3; the sampled edge: log entry 16).
The spec's own choice: D11, D28. -/
def Obligations.WireBitsOfTransaction : Prop :=
  ∀ (efp : Nat) (m : Memory) (l : Levels) (reading : Bool), m.wf = true → l.clk ≠ some true →
    wireBits reading l (transmitEvents efp m) =
      ((expectedBits 32 efp m).drop (if l.clk = none ∧ reading = false then 1 else 0)).map some ∧
    (expectedBits 32 efp m).length = 32 + 32 * m.length + efp

/-- A SHOW straight after a construction, the acquisition succeeding, sends one LED frame 0xE0000000 for each pixel
(spec/70_reset_and_hazards.md section 1). An inference of the spec; the reset brightness is its choice D16. The wire bits
are those a receiver samples at the rising clock edge (log entry 16, PRESUMED; the spec's choice D28), in the reading that
takes the first clock write, from an unknown level (D11), for an edge: only in that reading are there 32 start zeros, and
the spec admits 31 too (its section 3). The acquisition's answer stands in `answers`: log entry 4, DESIGN CHOICE. -/
def Obligations.FirstShowSendsDarkFrames : Prop :=
  ∀ (cfg : Config) (n : Nat) (s : State), s = { State.construct cfg n with answers := [.success] } →
    ∃ t u, exec .showStrip s = .next t ∧
      steps (transmitEvents cfg.endFramePulses s.buf).length t = .next u ∧ u.pos = .idle ∧
      u.trace = transmitEvents cfg.endFramePulses s.buf ∧
      wireBits true s.level u.trace =
        (List.replicate 32 false ++ (List.replicate n (frameBits 0xE0000000)).flatten ++
          List.replicate cfg.endFramePulses false).map some

/-- The pin writes of a transmission with 36 end pulses raise `delayFloor` by `(140 + 96 * N) * DELAY`, the lower bound
on its time that spec/70_reset_and_hazards.md section 4 gives. The model has no time and its `delay` changes nothing:
`delayFloor` is its own count, one DELAY for each event of the trace (log entry 14, DESIGN CHOICE). An inference of the
spec; where the delays fall is its choice D12, their unit D13, the end pulses D14. -/
def Obligations.TransmissionTimeFloor : Prop :=
  ∀ s : State, s.cfg.endFramePulses = 36 →
    delayFloor (transmit s) = delayFloor s + (140 + 96 * s.buf.length) * s.cfg.delay
end

