-- ==== Sys2Proof/Laws/Config.lean ====
section
/-! SUPPORT. The OPEN line numbers are pairwise distinct, whatever the free values are (spec/00_scope.md R7). -/

namespace Sys2Proof.Config

theorem skip_ne (taken n : Nat) : skip taken n ≠ taken := by
  unfold skip; split <;> omega

theorem skip_min_max_ne (a b n : Nat) :
    skip (max a b) (skip (min a b) n) ≠ a ∧ skip (max a b) (skip (min a b) n) ≠ b := by
  unfold skip; split_ifs <;> omega

theorem described_wf : described.wf = true := by
  have hclk := skip_ne openPinDat (openNumber 1)
  have hcs := skip_min_max_ne openPinDat openPinClk (openNumber 2)
  simp only [wf, described, Bool.and_eq_true, bne_iff_ne, ne_eq]
  exact ⟨⟨fun h => hclk h.symm, fun h => hcs.1 h.symm⟩, fun h => hcs.2 h.symm⟩

end Sys2Proof.Config
end

