-- ==== Sys2Proof/Laws/Decode.lean ====
section
/-! SUPPORT. The fields of a packed word are what was packed, a word is its eight fields, and what a mask asks of a word it
asks field by field (spec/30_encoding.md R70, R86). -/

namespace Sys2Proof

section
variable (opc : Byte) (idx : Index) (bri : Binary32) (r g b : Byte)

@[simp] theorem fieldOpc_pack : fieldOpc (pack opc idx bri r g b) = opc := by
  apply BitVec.eq_of_getLsbD_eq
  intro i hi
  simp only [fieldOpc, pack, BitVec.getLsbD_extractLsb', hi, decide_true, Bool.true_and, BitVec.getLsbD_append]
  rw [if_neg (by omega), if_neg (by omega), if_neg (by omega), if_neg (by omega), if_neg (by omega), if_neg (by omega), if_neg (by omega)]
  exact congrArg _ (by omega)

@[simp] theorem fieldRes0_pack : fieldRes0 (pack opc idx bri r g b) = 0 := by
  apply BitVec.eq_of_getLsbD_eq
  intro i hi
  simp only [fieldRes0, pack, BitVec.getLsbD_extractLsb', hi, decide_true, Bool.true_and, BitVec.getLsbD_append]
  rw [if_neg (by omega), if_neg (by omega), if_neg (by omega), if_neg (by omega), if_neg (by omega), if_neg (by omega), if_pos (by omega)]
  simp

@[simp] theorem fieldIdx_pack : fieldIdx (pack opc idx bri r g b) = idx := by
  apply BitVec.eq_of_getLsbD_eq
  intro i hi
  simp only [fieldIdx, pack, BitVec.getLsbD_extractLsb', hi, decide_true, Bool.true_and, BitVec.getLsbD_append]
  rw [if_neg (by omega), if_neg (by omega), if_neg (by omega), if_neg (by omega), if_neg (by omega), if_pos (by omega)]
  exact congrArg _ (by omega)

@[simp] theorem fieldBri_pack : fieldBri (pack opc idx bri r g b) = bri := by
  apply BitVec.eq_of_getLsbD_eq
  intro i hi
  simp only [fieldBri, pack, BitVec.getLsbD_extractLsb', hi, decide_true, Bool.true_and, BitVec.getLsbD_append]
  rw [if_neg (by omega), if_neg (by omega), if_neg (by omega), if_neg (by omega), if_pos (by omega)]
  exact congrArg _ (by omega)

@[simp] theorem fieldRes1_pack : fieldRes1 (pack opc idx bri r g b) = 0 := by
  apply BitVec.eq_of_getLsbD_eq
  intro i hi
  simp only [fieldRes1, pack, BitVec.getLsbD_extractLsb', hi, decide_true, Bool.true_and, BitVec.getLsbD_append]
  rw [if_neg (by omega), if_neg (by omega), if_neg (by omega), if_pos (by omega)]
  simp

@[simp] theorem fieldRed_pack : fieldRed (pack opc idx bri r g b) = r := by
  apply BitVec.eq_of_getLsbD_eq
  intro i hi
  simp only [fieldRed, pack, BitVec.getLsbD_extractLsb', hi, decide_true, Bool.true_and, BitVec.getLsbD_append]
  rw [if_neg (by omega), if_neg (by omega), if_pos (by omega)]
  exact congrArg _ (by omega)

@[simp] theorem fieldGrn_pack : fieldGrn (pack opc idx bri r g b) = g := by
  apply BitVec.eq_of_getLsbD_eq
  intro i hi
  simp only [fieldGrn, pack, BitVec.getLsbD_extractLsb', hi, decide_true, Bool.true_and, BitVec.getLsbD_append]
  rw [if_neg (by omega), if_pos (by omega)]
  exact congrArg _ (by omega)

@[simp] theorem fieldBlu_pack : fieldBlu (pack opc idx bri r g b) = b := by
  apply BitVec.eq_of_getLsbD_eq
  intro i hi
  simp only [fieldBlu, pack, BitVec.getLsbD_extractLsb', hi, decide_true, Bool.true_and, BitVec.getLsbD_append]
  rw [if_pos (by omega)]
  exact congrArg _ (by omega)

end

/-- A word is its eight fields, one after the other (spec/30_encoding.md R70). -/
theorem word_eq_fields (w : Word) : w = fieldOpc w ++ fieldRes0 w ++ fieldIdx w ++ fieldBri w ++ fieldRes1 w ++
    fieldRed w ++ fieldGrn w ++ fieldBlu w := by
  simp only [fieldOpc, fieldRes0, fieldIdx, fieldBri, fieldRes1, fieldRed, fieldGrn, fieldBlu]
  repeat rw [BitVec.extractLsb'_append_extractLsb'_eq_extractLsb' (by omega)]
  simp

/-- Two words are equal when their fields are. -/
theorem word_ext_iff (v w : Word) : v = w ↔
    fieldOpc v = fieldOpc w ∧ fieldRes0 v = fieldRes0 w ∧ fieldIdx v = fieldIdx w ∧ fieldBri v = fieldBri w ∧
      fieldRes1 v = fieldRes1 w ∧ fieldRed v = fieldRed w ∧ fieldGrn v = fieldGrn w ∧ fieldBlu v = fieldBlu w := by
  constructor
  · rintro rfl; simp
  · rintro ⟨h1, h2, h3, h4, h5, h6, h7, h8⟩
    rw [word_eq_fields v, word_eq_fields w, h1, h2, h3, h4, h5, h6, h7, h8]

/-- A word fits a row when each of its fields does. -/
theorem OpcodeRow.fits_iff (row : OpcodeRow) (w : Word) : row.fits w = true ↔
    fieldOpc w &&& fieldOpc row.mask = fieldOpc row.pattern ∧
    fieldRes0 w &&& fieldRes0 row.mask = fieldRes0 row.pattern ∧
    fieldIdx w &&& fieldIdx row.mask = fieldIdx row.pattern ∧
    fieldBri w &&& fieldBri row.mask = fieldBri row.pattern ∧
    fieldRes1 w &&& fieldRes1 row.mask = fieldRes1 row.pattern ∧
    fieldRed w &&& fieldRed row.mask = fieldRed row.pattern ∧
    fieldGrn w &&& fieldGrn row.mask = fieldGrn row.pattern ∧
    fieldBlu w &&& fieldBlu row.mask = fieldBlu row.pattern := by
  rw [OpcodeRow.fits, beq_iff_eq, word_ext_iff]
  simp only [fieldOpc, fieldRes0, fieldIdx, fieldBri, fieldRes1, fieldRed, fieldGrn, fieldBlu, BitVec.extractLsb'_and]

end Sys2Proof
end

