-- ==== Sys2Proof/Laws/Memory.lean ====
section
/-! SUPPORT. The laws of the pixel store: what a read gives after each write, that no write changes the number of
records, and that every write keeps the store well-formed (spec/20_memory.md R51, spec/10_state.md R22). -/

namespace Sys2Proof.Machine

/-! ### The number of records -/

@[simp] theorem memWrite_length (m : Memory) (i : Nat) (p : Pixel) : (memWrite m i p).length = m.length := by
  simp [memWrite]

@[simp] theorem memFill_length (m : Memory) (p : Pixel) : (memFill m p).length = m.length := by simp [memFill]

@[simp] theorem memSetBrightness_length (m : Memory) (q : Byte) : (memSetBrightness m q).length = m.length := by
  simp [memSetBrightness]

@[simp] theorem memBlank_length (m : Memory) : (memBlank m).length = m.length := by simp [memBlank]

/-! ### Reads -/

theorem memRead_isSome {m : Memory} {i : Nat} (h : i < m.length) : (memRead m i).isSome = true := by
  simp [memRead, h]

theorem memRead_eq_none {m : Memory} {i : Nat} (h : m.length ≤ i) : memRead m i = none := by
  simp [memRead, h]

theorem memRead_memWrite_same {m : Memory} {i : Nat} (h : i < m.length) (p : Pixel) :
    memRead (memWrite m i p) i = some p := by
  simp [memRead, memWrite, h]

theorem memRead_memWrite_other (m : Memory) {i k : Nat} (h : k ≠ i) (p : Pixel) :
    memRead (memWrite m i p) k = memRead m k := by
  simp [memRead, memWrite, Ne.symm h]

theorem memRead_memFill (m : Memory) (p : Pixel) (i : Nat) :
    memRead (memFill m p) i = (memRead m i).map fun _ => p := List.getElem?_map

theorem memRead_memSetBrightness (m : Memory) (q : Byte) (i : Nat) :
    memRead (memSetBrightness m q) i = (memRead m i).map fun p => { p with brightness := q } := by
  simp [memRead, memSetBrightness]

theorem memRead_memBlank (m : Memory) (i : Nat) :
    memRead (memBlank m) i = (memRead m i).map fun p => { p with red := 0, green := 0, blue := 0 } := by
  simp [memRead, memBlank]

/-! ### Well-formedness -/

theorem Memory.wf_iff (m : Memory) :
    m.wf = true ↔ m.length ≤ Config.maxPixels ∧ ∀ p ∈ m, p.brightness.toNat ≤ Config.brightnessMax := by
  simp [Memory.wf]

theorem memWrite_wf {m : Memory} (h : m.wf = true) (i : Nat) {p : Pixel}
    (hp : p.brightness.toNat ≤ Config.brightnessMax) : (memWrite m i p).wf = true := by
  rw [Memory.wf_iff] at h ⊢
  refine ⟨by simpa using h.1, fun p' hp' => ?_⟩
  rcases List.mem_or_eq_of_mem_set hp' with hm | rfl
  · exact h.2 _ hm
  · exact hp

theorem memFill_wf {m : Memory} (h : m.wf = true) {p : Pixel}
    (hp : p.brightness.toNat ≤ Config.brightnessMax) : (memFill m p).wf = true := by
  rw [Memory.wf_iff] at h ⊢
  refine ⟨by simpa using h.1, fun p' hp' => ?_⟩
  obtain ⟨_, _, rfl⟩ := List.mem_map.mp hp'
  exact hp

theorem memSetBrightness_wf {m : Memory} (h : m.wf = true) {q : Byte}
    (hq : q.toNat ≤ Config.brightnessMax) : (memSetBrightness m q).wf = true := by
  rw [Memory.wf_iff] at h ⊢
  refine ⟨by simpa using h.1, fun p' hp' => ?_⟩
  obtain ⟨_, _, rfl⟩ := List.mem_map.mp hp'
  exact hq

theorem memBlank_wf {m : Memory} (h : m.wf = true) : (memBlank m).wf = true := by
  rw [Memory.wf_iff] at h ⊢
  refine ⟨by simpa using h.1, fun p' hp' => ?_⟩
  obtain ⟨p, hp, rfl⟩ := List.mem_map.mp hp'
  exact h.2 p hp

theorem replicate_zero_wf {n : Nat} (h : n ≤ Config.maxPixels) :
    Memory.wf (List.replicate n Pixel.zero) = true := by
  rw [Memory.wf_iff]
  refine ⟨by simpa using h, fun p hp => ?_⟩
  rw [List.eq_of_mem_replicate hp]
  decide

theorem reset_memory_wf : State.reset.buf.wf = true := replicate_zero_wf (by decide)

end Sys2Proof.Machine
end

