-- ==== Sys2Proof/Laws/Operands.lean ====
section
/-! SUPPORT. What the operand forms can answer: a quantized brightness is at most 31 (spec/40_strip_ops.md R101,
"The result is at most 31"), and the two outcomes of each operand check. -/

namespace Sys2Proof.Machine

theorem contractUnits_le {b : Binary32} {u : Nat} (h : contractUnits b = some u) : u ≤ unitsOfOne := by
  unfold contractUnits at h
  split at h
  · cases h
  · cases h
  · split at h
    · cases h; exact Nat.zero_le _
    · cases h
  · split at h
    · cases h; assumption
    · cases h

/-- Rounding to binary32 does not pass a multiple of the rounding step. -/
theorem rne32_le_of_dvd {p B : Nat} (h : p ≤ B) (hd : 2 ^ excessBits p ∣ B) : rne32 p ≤ B := by
  obtain ⟨c, rfl⟩ := hd
  have hpos : 0 < 2 ^ excessBits p := by positivity
  unfold rne32
  generalize 2 ^ excessBits p = step at *
  have hq : p / step ≤ c := by
    rw [Nat.div_le_iff_le_mul_add_pred hpos]; omega
  rw [Nat.mul_comm step c]
  apply Nat.mul_le_mul_right
  split
  · rename_i hr
    rcases Nat.lt_or_ge (p / step) c with hlt | hge
    · exact hlt
    · have hc : p / step = c := Nat.le_antisymm hq hge
      have hdm := Nat.div_add_mod p step
      rw [hc] at hdm
      have h0 : p % step = 0 := by omega
      rw [h0] at hr
      omega
  · exact hq

theorem excessBits_le {p k : Nat} (h : p < 2 ^ (k + 24)) : excessBits p ≤ k := by
  unfold excessBits
  by_cases hp : p = 0
  · simp [hp]
  · have := (Nat.log2_lt hp).mpr h
    omega

theorem quantizeUnits_le {mode : QuantMode} {u : Nat} (h : u ≤ unitsOfOne) : quantizeUnits mode u ≤ 31 := by
  have key : ∀ p ≤ 31 * unitsOfOne, roundUnits p ≤ 31 := by
    intro p hp
    have hpos : 0 < 2 * unitsOfOne := by decide
    unfold roundUnits
    exact Nat.le_of_lt_succ ((Nat.div_lt_iff_lt_mul hpos).mpr (by omega))
  unfold quantizeUnits
  split
  · exact key _ (by omega)
  · refine key _ (rne32_le_of_dvd (by omega) ?_)
    have hlt : 31 * u < 2 ^ (130 + 24) := by
      have : unitsOfOne = 2 ^ 149 := rfl
      omega
    exact Dvd.dvd.mul_left (Nat.pow_dvd_pow 2 (le_trans (excessBits_le hlt) (by norm_num))) 31

theorem quantize_toNat {mode : QuantMode} {b : Binary32} {q : Byte} (h : quantize mode b = some q) :
    ∃ u, contractUnits b = some u ∧ q.toNat = quantizeUnits mode u := by
  obtain ⟨u, hu, rfl⟩ := Option.map_eq_some_iff.mp h
  refine ⟨u, hu, ?_⟩
  have := quantizeUnits_le (mode := mode) (contractUnits_le hu)
  simp only [BitVec.toNat_ofNat]
  omega

theorem quantize_le {mode : QuantMode} {b : Binary32} {q : Byte} (h : quantize mode b = some q) :
    q.toNat ≤ Config.brightnessMax := by
  obtain ⟨u, hu, hq⟩ := quantize_toNat h
  rw [hq]
  exact quantizeUnits_le (contractUnits_le hu)

/-- The brightness is in contract and the command goes on with its quantized value, or the command is the fault
BrightnessOutOfRange. -/
theorem withBrightness_cases (b : Binary32) (body : Byte → State → Result) (s : State) :
    (∃ q, quantize s.cfg.quantMode b = some q ∧ withBrightness b body s = body q s) ∨
      (quantize s.cfg.quantMode b = none ∧ withBrightness b body s = raise (.brightnessOutOfRange b) s) := by
  unfold withBrightness
  cases h : quantize s.cfg.quantMode b with
  | some q => exact .inl ⟨q, rfl, rfl⟩
  | none => exact .inr ⟨rfl, rfl⟩

/-- The index is in range and the command goes on, or the command is the fault IndexOutOfRange. -/
theorem withIndex_cases (index : Index) (body : Nat → State → Result) (s : State) :
    (index.toNat < s.buf.length ∧ withIndex index body s = body index.toNat s) ∨
      (s.buf.length ≤ index.toNat ∧ withIndex index body s = raise (.indexOutOfRange index) s) := by
  unfold withIndex
  split
  · exact .inl ⟨‹_›, rfl⟩
  · exact .inr ⟨by omega, rfl⟩

/-- Everything a command with a brightness operand that answers a next state can have done at the check. -/
theorem withBrightness_next {b : Binary32} {body : Byte → State → Result} {s t : State}
    (h : withBrightness b body s = .next t) :
    (∃ q, quantize s.cfg.quantMode b = some q ∧ body q s = .next t) ∨
      (quantize s.cfg.quantMode b = none ∧ t = s.withFault (.brightnessOutOfRange b)) := by
  rcases withBrightness_cases b body s with ⟨q, hq, he⟩ | ⟨hq, he⟩
  · exact .inl ⟨q, hq, he ▸ h⟩
  · exact .inr ⟨hq, (Host.Outcome.next.inj (he.symm.trans h)).symm⟩

/-- Everything a command with an index operand that answers a next state can have done at the check. -/
theorem withIndex_next {index : Index} {body : Nat → State → Result} {s t : State}
    (h : withIndex index body s = .next t) :
    (index.toNat < s.buf.length ∧ body index.toNat s = .next t) ∨
      (s.buf.length ≤ index.toNat ∧ t = s.withFault (.indexOutOfRange index)) := by
  rcases withIndex_cases index body s with ⟨hi, he⟩ | ⟨hi, he⟩
  · exact .inl ⟨hi, he ▸ h⟩
  · exact .inr ⟨hi, (Host.Outcome.next.inj (he.symm.trans h)).symm⟩

end Sys2Proof.Machine
end

