-- ==== Sys2Proof/Laws/State.lean ====
section
/-! SUPPORT. One lemma for each field of State under each named update, so that no proof unfolds a record update. -/

namespace Sys2Proof.Machine

/-! ### State.setBuf -/

@[simp] theorem State.setBuf_cfg (s : State) (m : Memory) : (s.setBuf m).cfg = s.cfg := rfl
@[simp] theorem State.setBuf_buf (s : State) (m : Memory) : (s.setBuf m).buf = m := rfl
@[simp] theorem State.setBuf_initialized (s : State) (m : Memory) : (s.setBuf m).initialized = s.initialized := rfl
@[simp] theorem State.setBuf_level (s : State) (m : Memory) : (s.setBuf m).level = s.level := rfl
@[simp] theorem State.setBuf_pos (s : State) (m : Memory) : (s.setBuf m).pos = s.pos := rfl
@[simp] theorem State.setBuf_released (s : State) (m : Memory) : (s.setBuf m).released = s.released := rfl
@[simp] theorem State.setBuf_fault (s : State) (m : Memory) : (s.setBuf m).fault = s.fault := rfl
@[simp] theorem State.setBuf_trace (s : State) (m : Memory) : (s.setBuf m).trace = s.trace := rfl
@[simp] theorem State.setBuf_port (s : State) (m : Memory) : (s.setBuf m).port = s.port := rfl
@[simp] theorem State.setBuf_answers (s : State) (m : Memory) : (s.setBuf m).answers = s.answers := rfl
@[simp] theorem State.setBuf_asked (s : State) (m : Memory) : (s.setBuf m).asked = s.asked := rfl
@[simp] theorem State.setBuf_running (s : State) (m : Memory) : (s.setBuf m).running = s.running := rfl
@[simp] theorem State.setBuf_replies (s : State) (m : Memory) : (s.setBuf m).replies = s.replies := rfl

/-! ### State.withFault -/

@[simp] theorem State.withFault_cfg (s : State) (v : Violation) : (s.withFault v).cfg = s.cfg := rfl
@[simp] theorem State.withFault_buf (s : State) (v : Violation) : (s.withFault v).buf = s.buf := rfl
@[simp] theorem State.withFault_initialized (s : State) (v : Violation) : (s.withFault v).initialized = s.initialized := rfl
@[simp] theorem State.withFault_level (s : State) (v : Violation) : (s.withFault v).level = s.level := rfl
@[simp] theorem State.withFault_pos (s : State) (v : Violation) : (s.withFault v).pos = s.pos := rfl
@[simp] theorem State.withFault_released (s : State) (v : Violation) : (s.withFault v).released = s.released := rfl
@[simp] theorem State.withFault_fault (s : State) (v : Violation) : (s.withFault v).fault = some v := rfl
@[simp] theorem State.withFault_trace (s : State) (v : Violation) : (s.withFault v).trace = s.trace := rfl
@[simp] theorem State.withFault_port (s : State) (v : Violation) : (s.withFault v).port = s.port := rfl
@[simp] theorem State.withFault_answers (s : State) (v : Violation) : (s.withFault v).answers = s.answers := rfl
@[simp] theorem State.withFault_asked (s : State) (v : Violation) : (s.withFault v).asked = s.asked := rfl
@[simp] theorem State.withFault_running (s : State) (v : Violation) : (s.withFault v).running = s.running := rfl
@[simp] theorem State.withFault_replies (s : State) (v : Violation) : (s.withFault v).replies = s.replies := rfl

/-! ### State.issue -/

@[simp] theorem State.issue_cfg (s : State) (w : Word) : (s.issue w).cfg = s.cfg := rfl
@[simp] theorem State.issue_buf (s : State) (w : Word) : (s.issue w).buf = s.buf := rfl
@[simp] theorem State.issue_initialized (s : State) (w : Word) : (s.issue w).initialized = s.initialized := rfl
@[simp] theorem State.issue_level (s : State) (w : Word) : (s.issue w).level = s.level := rfl
@[simp] theorem State.issue_pos (s : State) (w : Word) : (s.issue w).pos = s.pos := rfl
@[simp] theorem State.issue_released (s : State) (w : Word) : (s.issue w).released = s.released := rfl
@[simp] theorem State.issue_fault (s : State) (w : Word) : (s.issue w).fault = s.fault := rfl
@[simp] theorem State.issue_trace (s : State) (w : Word) : (s.issue w).trace = s.trace := rfl
@[simp] theorem State.issue_port (s : State) (w : Word) : (s.issue w).port = w :: s.port := rfl
@[simp] theorem State.issue_answers (s : State) (w : Word) : (s.issue w).answers = s.answers := rfl
@[simp] theorem State.issue_asked (s : State) (w : Word) : (s.issue w).asked = s.asked := rfl
@[simp] theorem State.issue_running (s : State) (w : Word) : (s.issue w).running = s.running := rfl
@[simp] theorem State.issue_replies (s : State) (w : Word) : (s.issue w).replies = s.replies := rfl

/-! ### State.ask -/

@[simp] theorem State.ask_cfg (s : State) : (s.ask).cfg = s.cfg := rfl
@[simp] theorem State.ask_buf (s : State) : (s.ask).buf = s.buf := rfl
@[simp] theorem State.ask_initialized (s : State) : (s.ask).initialized = s.initialized := rfl
@[simp] theorem State.ask_level (s : State) : (s.ask).level = s.level := rfl
@[simp] theorem State.ask_pos (s : State) : (s.ask).pos = s.pos := rfl
@[simp] theorem State.ask_released (s : State) : (s.ask).released = s.released := rfl
@[simp] theorem State.ask_fault (s : State) : (s.ask).fault = s.fault := rfl
@[simp] theorem State.ask_trace (s : State) : (s.ask).trace = s.trace := rfl
@[simp] theorem State.ask_port (s : State) : (s.ask).port = s.port := rfl
@[simp] theorem State.ask_answers (s : State) : (s.ask).answers = s.answers.tail := rfl
@[simp] theorem State.ask_asked (s : State) : (s.ask).asked = s.asked + 1 := rfl
@[simp] theorem State.ask_running (s : State) : (s.ask).running = s.running := rfl
@[simp] theorem State.ask_replies (s : State) : (s.ask).replies = s.replies := rfl

/-! ### State.hold -/

@[simp] theorem State.hold_cfg (s : State) : (s.hold).cfg = s.cfg := rfl
@[simp] theorem State.hold_buf (s : State) : (s.hold).buf = s.buf := rfl
@[simp] theorem State.hold_initialized (s : State) : (s.hold).initialized = true := rfl
@[simp] theorem State.hold_level (s : State) : (s.hold).level = s.level := rfl
@[simp] theorem State.hold_pos (s : State) : (s.hold).pos = s.pos := rfl
@[simp] theorem State.hold_released (s : State) : (s.hold).released = s.released := rfl
@[simp] theorem State.hold_fault (s : State) : (s.hold).fault = s.fault := rfl
@[simp] theorem State.hold_trace (s : State) : (s.hold).trace = s.trace := rfl
@[simp] theorem State.hold_port (s : State) : (s.hold).port = s.port := rfl
@[simp] theorem State.hold_answers (s : State) : (s.hold).answers = s.answers := rfl
@[simp] theorem State.hold_asked (s : State) : (s.hold).asked = s.asked := rfl
@[simp] theorem State.hold_running (s : State) : (s.hold).running = s.running := rfl
@[simp] theorem State.hold_replies (s : State) : (s.hold).replies = s.replies := rfl

/-! ### State.record -/

@[simp] theorem State.record_cfg (s : State) (e : PinEvent) : (s.record e).cfg = s.cfg := rfl
@[simp] theorem State.record_buf (s : State) (e : PinEvent) : (s.record e).buf = s.buf := rfl
@[simp] theorem State.record_initialized (s : State) (e : PinEvent) : (s.record e).initialized = s.initialized := rfl
@[simp] theorem State.record_level (s : State) (e : PinEvent) : (s.record e).level = s.level.drive e := rfl
@[simp] theorem State.record_pos (s : State) (e : PinEvent) : (s.record e).pos = s.pos := rfl
@[simp] theorem State.record_released (s : State) (e : PinEvent) : (s.record e).released = s.released := rfl
@[simp] theorem State.record_fault (s : State) (e : PinEvent) : (s.record e).fault = s.fault := rfl
@[simp] theorem State.record_trace (s : State) (e : PinEvent) : (s.record e).trace = s.trace ++ [e] := rfl
@[simp] theorem State.record_port (s : State) (e : PinEvent) : (s.record e).port = s.port := rfl
@[simp] theorem State.record_answers (s : State) (e : PinEvent) : (s.record e).answers = s.answers := rfl
@[simp] theorem State.record_asked (s : State) (e : PinEvent) : (s.record e).asked = s.asked := rfl
@[simp] theorem State.record_running (s : State) (e : PinEvent) : (s.record e).running = s.running := rfl
@[simp] theorem State.record_replies (s : State) (e : PinEvent) : (s.record e).replies = s.replies := rfl

/-! ### State.atPos -/

@[simp] theorem State.atPos_cfg (s : State) (p : SeqPos) : (s.atPos p).cfg = s.cfg := rfl
@[simp] theorem State.atPos_buf (s : State) (p : SeqPos) : (s.atPos p).buf = s.buf := rfl
@[simp] theorem State.atPos_initialized (s : State) (p : SeqPos) : (s.atPos p).initialized = s.initialized := rfl
@[simp] theorem State.atPos_level (s : State) (p : SeqPos) : (s.atPos p).level = s.level := rfl
@[simp] theorem State.atPos_pos (s : State) (p : SeqPos) : (s.atPos p).pos = p := rfl
@[simp] theorem State.atPos_released (s : State) (p : SeqPos) : (s.atPos p).released = s.released := rfl
@[simp] theorem State.atPos_fault (s : State) (p : SeqPos) : (s.atPos p).fault = s.fault := rfl
@[simp] theorem State.atPos_trace (s : State) (p : SeqPos) : (s.atPos p).trace = s.trace := rfl
@[simp] theorem State.atPos_port (s : State) (p : SeqPos) : (s.atPos p).port = s.port := rfl
@[simp] theorem State.atPos_answers (s : State) (p : SeqPos) : (s.atPos p).answers = s.answers := rfl
@[simp] theorem State.atPos_asked (s : State) (p : SeqPos) : (s.atPos p).asked = s.asked := rfl
@[simp] theorem State.atPos_running (s : State) (p : SeqPos) : (s.atPos p).running = s.running := rfl
@[simp] theorem State.atPos_replies (s : State) (p : SeqPos) : (s.atPos p).replies = s.replies := rfl

/-! ### State.withRunning -/

@[simp] theorem State.withRunning_cfg (s : State) (r : Option Transmitter) : (s.withRunning r).cfg = s.cfg := rfl
@[simp] theorem State.withRunning_buf (s : State) (r : Option Transmitter) : (s.withRunning r).buf = s.buf := rfl
@[simp] theorem State.withRunning_initialized (s : State) (r : Option Transmitter) : (s.withRunning r).initialized = s.initialized := rfl
@[simp] theorem State.withRunning_level (s : State) (r : Option Transmitter) : (s.withRunning r).level = s.level := rfl
@[simp] theorem State.withRunning_pos (s : State) (r : Option Transmitter) : (s.withRunning r).pos = s.pos := rfl
@[simp] theorem State.withRunning_released (s : State) (r : Option Transmitter) : (s.withRunning r).released = s.released := rfl
@[simp] theorem State.withRunning_fault (s : State) (r : Option Transmitter) : (s.withRunning r).fault = s.fault := rfl
@[simp] theorem State.withRunning_trace (s : State) (r : Option Transmitter) : (s.withRunning r).trace = s.trace := rfl
@[simp] theorem State.withRunning_port (s : State) (r : Option Transmitter) : (s.withRunning r).port = s.port := rfl
@[simp] theorem State.withRunning_answers (s : State) (r : Option Transmitter) : (s.withRunning r).answers = s.answers := rfl
@[simp] theorem State.withRunning_asked (s : State) (r : Option Transmitter) : (s.withRunning r).asked = s.asked := rfl
@[simp] theorem State.withRunning_running (s : State) (r : Option Transmitter) : (s.withRunning r).running = r := rfl
@[simp] theorem State.withRunning_replies (s : State) (r : Option Transmitter) : (s.withRunning r).replies = s.replies := rfl

/-! ### reply -/

@[simp] theorem reply_cfg (st : Status) (s : State) : (reply st s).cfg = s.cfg := rfl
@[simp] theorem reply_buf (st : Status) (s : State) : (reply st s).buf = s.buf := rfl
@[simp] theorem reply_initialized (st : Status) (s : State) : (reply st s).initialized = s.initialized := rfl
@[simp] theorem reply_level (st : Status) (s : State) : (reply st s).level = s.level := rfl
@[simp] theorem reply_pos (st : Status) (s : State) : (reply st s).pos = s.pos := rfl
@[simp] theorem reply_released (st : Status) (s : State) : (reply st s).released = s.released := rfl
@[simp] theorem reply_fault (st : Status) (s : State) : (reply st s).fault = s.fault := rfl
@[simp] theorem reply_trace (st : Status) (s : State) : (reply st s).trace = s.trace := rfl
@[simp] theorem reply_port (st : Status) (s : State) : (reply st s).port = s.port := rfl
@[simp] theorem reply_answers (st : Status) (s : State) : (reply st s).answers = s.answers := rfl
@[simp] theorem reply_asked (st : Status) (s : State) : (reply st s).asked = s.asked := rfl
@[simp] theorem reply_running (st : Status) (s : State) : (reply st s).running = s.running := rfl
@[simp] theorem reply_replies (st : Status) (s : State) : (reply st s).replies = s.replies ++ [st] := rfl

/-! ### release -/

@[simp] theorem release_cfg (s : State) : (release s).cfg = s.cfg := rfl
@[simp] theorem release_buf (s : State) : (release s).buf = s.buf := rfl
@[simp] theorem release_initialized (s : State) : (release s).initialized = false := rfl
@[simp] theorem release_level (s : State) : (release s).level = Levels.unknown := rfl
@[simp] theorem release_pos (s : State) : (release s).pos = s.pos := rfl
@[simp] theorem release_released (s : State) : (release s).released = s.released := rfl
@[simp] theorem release_fault (s : State) : (release s).fault = s.fault := rfl
@[simp] theorem release_trace (s : State) : (release s).trace = s.trace := rfl
@[simp] theorem release_port (s : State) : (release s).port = s.port := rfl
@[simp] theorem release_answers (s : State) : (release s).answers = s.answers := rfl
@[simp] theorem release_asked (s : State) : (release s).asked = s.asked := rfl
@[simp] theorem release_running (s : State) : (release s).running = s.running := rfl
@[simp] theorem release_replies (s : State) : (release s).replies = s.replies := rfl

/-! ### retire -/

@[simp] theorem retire_cfg (s : State) : (retire s).cfg = s.cfg := rfl
@[simp] theorem retire_buf (s : State) : (retire s).buf = s.buf := rfl
@[simp] theorem retire_initialized (s : State) : (retire s).initialized = false := rfl
@[simp] theorem retire_level (s : State) : (retire s).level = Levels.unknown := rfl
@[simp] theorem retire_pos (s : State) : (retire s).pos = s.pos := rfl
@[simp] theorem retire_released (s : State) : (retire s).released = true := rfl
@[simp] theorem retire_fault (s : State) : (retire s).fault = s.fault := rfl
@[simp] theorem retire_trace (s : State) : (retire s).trace = s.trace := rfl
@[simp] theorem retire_port (s : State) : (retire s).port = s.port := rfl
@[simp] theorem retire_answers (s : State) : (retire s).answers = s.answers := rfl
@[simp] theorem retire_asked (s : State) : (retire s).asked = s.asked := rfl
@[simp] theorem retire_running (s : State) : (retire s).running = s.running := rfl
@[simp] theorem retire_replies (s : State) : (retire s).replies = s.replies ++ [.ok] := rfl

/-! ### beginTransmit -/

@[simp] theorem beginTransmit_cfg (r : Transmitter) (s : State) : (beginTransmit r s).cfg = s.cfg := rfl
@[simp] theorem beginTransmit_buf (r : Transmitter) (s : State) : (beginTransmit r s).buf = s.buf := rfl
@[simp] theorem beginTransmit_initialized (r : Transmitter) (s : State) : (beginTransmit r s).initialized = s.initialized := rfl
@[simp] theorem beginTransmit_level (r : Transmitter) (s : State) : (beginTransmit r s).level = s.level := rfl
@[simp] theorem beginTransmit_pos (r : Transmitter) (s : State) : (beginTransmit r s).pos = .csLow := rfl
@[simp] theorem beginTransmit_released (r : Transmitter) (s : State) : (beginTransmit r s).released = s.released := rfl
@[simp] theorem beginTransmit_fault (r : Transmitter) (s : State) : (beginTransmit r s).fault = s.fault := rfl
@[simp] theorem beginTransmit_trace (r : Transmitter) (s : State) : (beginTransmit r s).trace = s.trace := rfl
@[simp] theorem beginTransmit_port (r : Transmitter) (s : State) : (beginTransmit r s).port = s.port := rfl
@[simp] theorem beginTransmit_answers (r : Transmitter) (s : State) : (beginTransmit r s).answers = s.answers := rfl
@[simp] theorem beginTransmit_asked (r : Transmitter) (s : State) : (beginTransmit r s).asked = s.asked := rfl
@[simp] theorem beginTransmit_running (r : Transmitter) (s : State) : (beginTransmit r s).running = some r := rfl
@[simp] theorem beginTransmit_replies (r : Transmitter) (s : State) : (beginTransmit r s).replies = s.replies := rfl

/-! ### pinWrite -/

@[simp] theorem pinWrite_cfg (e : PinEvent) (s : State) : (pinWrite e s).cfg = s.cfg := rfl
@[simp] theorem pinWrite_buf (e : PinEvent) (s : State) : (pinWrite e s).buf = s.buf := rfl
@[simp] theorem pinWrite_initialized (e : PinEvent) (s : State) : (pinWrite e s).initialized = s.initialized := rfl
@[simp] theorem pinWrite_level (e : PinEvent) (s : State) : (pinWrite e s).level = s.level.drive e := rfl
@[simp] theorem pinWrite_pos (e : PinEvent) (s : State) : (pinWrite e s).pos = s.pos := rfl
@[simp] theorem pinWrite_released (e : PinEvent) (s : State) : (pinWrite e s).released = s.released := rfl
@[simp] theorem pinWrite_fault (e : PinEvent) (s : State) : (pinWrite e s).fault = s.fault := rfl
@[simp] theorem pinWrite_trace (e : PinEvent) (s : State) : (pinWrite e s).trace = s.trace ++ [e] := rfl
@[simp] theorem pinWrite_port (e : PinEvent) (s : State) : (pinWrite e s).port = s.port := rfl
@[simp] theorem pinWrite_answers (e : PinEvent) (s : State) : (pinWrite e s).answers = s.answers := rfl
@[simp] theorem pinWrite_asked (e : PinEvent) (s : State) : (pinWrite e s).asked = s.asked := rfl
@[simp] theorem pinWrite_running (e : PinEvent) (s : State) : (pinWrite e s).running = s.running := rfl
@[simp] theorem pinWrite_replies (e : PinEvent) (s : State) : (pinWrite e s).replies = s.replies := rfl

end Sys2Proof.Machine
end

