-- ==== Sys2Proof/Laws/Ops.lean ====
section
/-! SUPPORT. What each shared operation can answer, said once: the gate of the commands, the setup of the lines, the
port, and the record of a fault. -/

namespace Sys2Proof.Machine

theorem State.busy_eq_false (s : State) : s.busy = false ↔ s.pos = .idle := by simp [State.busy]

theorem State.busy_eq_true (s : State) : s.busy = true ↔ s.pos ≠ .idle := by simp [State.busy]

theorem State.halted_eq_false (s : State) : s.halted = false ↔ s.fault = none := by simp [State.halted]

theorem State.ready_iff (s : State) : s.ready = true ↔ s.pos = .idle ∧ s.fault = none := by
  simp [State.ready, State.busy, State.halted]

/-- A command that may start runs its own body. -/
theorem command_open (opc : Byte) (body : State → Result) {s : State} (hf : s.fault = none) (hp : s.pos = .idle)
    (hr : s.released = false) : command opc body s = body s := by
  simp [command, hf, State.busy, hp, hr]

/-- After SHUTDOWN a command is the fault UseAfterShutdown. -/
theorem command_released (opc : Byte) (body : State → Result) {s : State} (hf : s.fault = none) (hp : s.pos = .idle)
    (hr : s.released = true) : command opc body s = raise (.useAfterShutdown opc) s := by
  simp [command, hf, State.busy, hp, hr]

/-- Everything a command that answers a next state can have done. -/
theorem command_next {opc : Byte} {body : State → Result} {s t : State} (h : command opc body s = .next t) :
    s.fault = none ∧ s.pos = .idle ∧
      ((s.released = true ∧ t = s.withFault (.useAfterShutdown opc)) ∨ (s.released = false ∧ body s = .next t)) := by
  unfold command at h
  cases hf : s.fault with
  | some v => simp [hf] at h
  | none =>
    simp only [hf] at h
    cases hb : s.busy with
    | true => simp [hb] at h
    | false =>
      refine ⟨rfl, (s.busy_eq_false).mp hb, ?_⟩
      cases hr : s.released with
      | true =>
        simp only [hb, hr, Bool.false_eq_true, if_false, if_true, raise] at h
        exact .inl ⟨rfl, (Host.Outcome.next.inj h).symm⟩
      | false =>
        simp only [hb, hr, Bool.false_eq_true, if_false] at h
        exact .inr ⟨rfl, h⟩

/-- An acquisition holds all three lines or none; either way the platform was asked once. -/
theorem acquireLines_cases (s : State) :
    (nextAnswer s = .success ∧ acquireLines s = (.success, s.ask.hold)) ∨
      (∃ e, nextAnswer s = .failure e ∧ acquireLines s = (.failure e, s.ask)) := by
  unfold acquireLines
  cases h : nextAnswer s with
  | success => exact .inl ⟨rfl, rfl⟩
  | failure e => exact .inr ⟨e, rfl, rfl⟩

/-- The setup goes on with the lines held already, acquires them now, or ends in a device error. -/
theorem withLines_cases (k : State → State) (s : State) :
    (s.initialized = true ∧ withLines k s = k s) ∨
      (s.initialized = false ∧ nextAnswer s = .success ∧ withLines k s = k s.ask.hold) ∨
      (s.initialized = false ∧ ∃ e, nextAnswer s = .failure e ∧ withLines k s = reply (.deviceError e) s.ask) := by
  unfold withLines
  cases hi : s.initialized with
  | true => exact .inl ⟨rfl, by simp⟩
  | false =>
    rcases acquireLines_cases s with ⟨ha, hl⟩ | ⟨e, ha, hl⟩
    · exact .inr (.inl ⟨rfl, ha, by simp [hl]⟩)
    · exact .inr (.inr ⟨rfl, e, ha, by simp [hl]⟩)

/-- The port gives its first word. -/
theorem fetch_cons {s : State} {w : Word} {rest : List Word} (h : s.port = w :: rest) :
    fetch s = some (w, { s with port := rest }) := by simp [fetch, h]

theorem fetch_nil {s : State} (h : s.port = []) : fetch s = none := by simp [fetch, h]

/-- An answer laid down is the one the platform gives. -/
theorem nextAnswer_cons {s : State} {a : Answer} {rest : List Answer} (h : s.answers = a :: rest) :
    nextAnswer s = a := by simp [nextAnswer, h]

@[simp] theorem delay_eq (s : State) : delay s = s := rfl

end Sys2Proof.Machine
end

