-- ==== Sys2Proof/Laws/PerInstr.lean ====
section
/-! SUPPORT. Statements for all commands, one lemma per constructor. `WordForm`: the word of a command carries its
opcode byte and has its reserved fields zero (spec/30_encoding.md R70, R71, R73). -/

namespace Sys2Proof.Laws.WordForm

/-- The word of the command has its opcode in bits [127:120] and zero in both reserved fields. -/
def Statement (i : Instr) : Prop :=
  fieldOpc (encode i) = opcodeOf i ∧ fieldRes0 (encode i) = 0 ∧ fieldRes1 (encode i) = 0

theorem init : Statement .init := by simp [Statement, encode, opcodeOf]
theorem setPixel (index : Index) (r g b : Byte) (bright : Binary32) : Statement (.setPixel index r g b bright) := by
  simp [Statement, encode, opcodeOf]
theorem setAll (r g b : Byte) (bright : Binary32) : Statement (.setAll r g b bright) := by
  simp [Statement, encode, opcodeOf]
theorem setBrightness (bright : Binary32) : Statement (.setBrightness bright) := by
  simp [Statement, encode, opcodeOf]
theorem clear : Statement .clear := by simp [Statement, encode, opcodeOf]
theorem showStrip : Statement .showStrip := by simp [Statement, encode, opcodeOf]
theorem shutdown : Statement .shutdown := by simp [Statement, encode, opcodeOf]

end Sys2Proof.Laws.WordForm
end

