-- ==== Sys2Proof/Laws/Sequencer.lean ====
section
/-! SUPPORT. What a step of the sequencer can do, said once (spec/42_serializer.md R174). -/

namespace Sys2Proof.Machine

/-- A position in range has a pin write. -/
theorem writeAt_isSome {efp : Nat} {m : Memory} {p : SeqPos} (hw : p.wf efp m.length = true) (hp : p ≠ .idle) :
    ∃ e, writeAt m p = some e := by
  cases p with
  | idle => exact absurd rfl hp
  | pixBit i j k st =>
    have hi : i < m.length := by simpa [SeqPos.wf] using hw
    obtain ⟨px, hpx⟩ := Option.isSome_iff_exists.mp (memRead_isSome hi)
    cases st <;> simp [writeAt, hpx]
  | csLow => exact ⟨_, rfl⟩
  | startDat => exact ⟨_, rfl⟩
  | startClk k h => exact ⟨_, rfl⟩
  | endDat => exact ⟨_, rfl⟩
  | endClk k h => exact ⟨_, rfl⟩
  | csHigh => exact ⟨_, rfl⟩

/-- With the lines held, a pin write is made and the sequencer goes on to the successor. -/
theorem sequencerStep_write {s : State} {e : PinEvent} (hi : s.initialized = true)
    (hw : writeAt s.buf s.pos = some e) :
    sequencerStep s = .next (arrive (succ s.cfg.endFramePulses s.buf.length s.pos) (pinWrite e s)) := by
  have hp : s.pos ≠ .idle := by rintro h; simp [h, writeAt] at hw
  simp [sequencerStep, hp, hi, hw]

/-- Everything a step of a transmission that answers a next state can have done. -/
theorem sequencerStep_next {s t : State} (hp : s.pos ≠ .idle) (h : sequencerStep s = .next t) :
    s.initialized = true ∧ ∃ e, writeAt s.buf s.pos = some e ∧
      t = arrive (succ s.cfg.endFramePulses s.buf.length s.pos) (pinWrite e s) := by
  unfold sequencerStep at h
  rw [if_neg hp] at h
  cases hi : s.initialized with
  | false => simp [hi] at h
  | true =>
    refine ⟨rfl, ?_⟩
    simp only [hi, Bool.true_eq_false, if_false] at h
    cases hw : writeAt s.buf s.pos with
    | none => simp [hw] at h
    | some e =>
      rw [hw] at h
      exact ⟨e, rfl, (Host.Outcome.next.inj h).symm⟩

/-- Away from Idle only the position moves. -/
theorem arrive_moving {p : SeqPos} (hp : p ≠ .idle) (s : State) : arrive p s = s.atPos p := if_neg hp

/-- At Idle the command that transmitted ends. -/
theorem arrive_idle (s : State) : arrive .idle s = finishTransmit (s.atPos .idle) := if_pos rfl

/-- Only the last position is followed by Idle. -/
theorem succ_eq_idle {efp n : Nat} {p : SeqPos} (hp : p ≠ .idle) : succ efp n p = .idle ↔ p = .csHigh := by
  cases p with
  | idle => exact absurd rfl hp
  | startClk k h => cases h <;> simp [succ, firstPix]; split_ifs <;> simp
  | pixBit i j k st => cases st <;> simp [succ, afterBit]; split_ifs <;> simp
  | endClk k h => cases h <;> simp [succ]; split_ifs <;> simp
  | startDat => simp [succ, firstPix]; split_ifs <;> simp
  | csLow => simp [succ]
  | endDat => simp [succ]; split_ifs <;> simp
  | csHigh => simp [succ]

/-- The ways a transmission ends. -/
theorem finishTransmit_cases (s : State) :
    (s.running = some .shuttingDown ∧ finishTransmit s = retire (s.withRunning none)) ∨
      (s.running = some .showing ∧ finishTransmit s = reply .ok (s.withRunning none)) ∨
      (s.running = none ∧ finishTransmit s = s) := by
  unfold finishTransmit
  cases h : s.running with
  | none => exact .inr (.inr ⟨rfl, rfl⟩)
  | some r => cases r <;> simp

end Sys2Proof.Machine
end

