-- ==== Sys2Proof/Laws/Remaining.lean ====
section
/-! SUPPORT. The pin writes still to come at a position of the sequencer, and the one fact about them: a position's
write is the first of them, and the successor's are the rest (spec/42_serializer.md R174, R166). -/

namespace Sys2Proof.Machine

/-- Bits `k` down to 0 of a byte. -/
def bitsFrom (v : Byte) : Nat → List PinEvent
  | 0 => sendBit v 0
  | k + 1 => sendBit v (k + 1) ++ bitsFrom v k

/-- The bytes of a frame after byte `j`. -/
def bytesAfter (p : Pixel) (j : Nat) : List PinEvent := (((frame p).drop (j + 1)).map sendByte).flatten

/-- The end frame and the last write. -/
def tailEvents (efp : Nat) : List PinEvent := endFrame efp ++ [(.cs, true)]

/-- The pixels after pixel `i`, and what follows them. -/
def pixelsAfter (efp : Nat) (m : Memory) (i : Nat) : List PinEvent :=
  ((m.drop (i + 1)).map sendPixel).flatten ++ tailEvents efp

/-- What is left from bit `k` of byte `j` of pixel `i` on, the write of its data level first. -/
def bitsOnward (efp : Nat) (m : Memory) (i : Nat) (j : Fin 4) (k : Fin 8) : List PinEvent :=
  match memRead m i with
  | some p => bitsFrom (byteOf p j) k ++ bytesAfter p j ++ pixelsAfter efp m i
  | none => []

/-- The pin writes from a position to the end of the transmission. -/
def remaining (efp : Nat) (m : Memory) : SeqPos → List PinEvent
  | .idle => []
  | .csLow => transmitEvents efp m
  | .startDat => startFrame ++ (m.map sendPixel).flatten ++ tailEvents efp
  | .startClk k .rise => pulses (32 - k) ++ (m.map sendPixel).flatten ++ tailEvents efp
  | .startClk k .fall => (.clk, false) :: pulses (32 - k - 1) ++ (m.map sendPixel).flatten ++ tailEvents efp
  | .pixBit i j k .dat => bitsOnward efp m i j k
  | .pixBit i j k .rise => (bitsOnward efp m i j k).drop 1
  | .pixBit i j k .fall => (bitsOnward efp m i j k).drop 2
  | .endDat => tailEvents efp
  | .endClk k .rise => pulses (efp - k) ++ [(.cs, true)]
  | .endClk k .fall => (.clk, false) :: pulses (efp - k - 1) ++ [(.cs, true)]
  | .csHigh => [(.cs, true)]

theorem pulses_succ (n : Nat) : pulses (n + 1) = (.clk, true) :: (.clk, false) :: pulses n := by
  simp [pulses, pulse, List.replicate_succ]

theorem bitsFrom_cons (v : Byte) (n : Nat) :
    ∃ rest, bitsFrom v n = (.dat, bit v n) :: (.clk, true) :: (.clk, false) :: rest := by
  cases n <;> simp [bitsFrom, sendBit, pulse]

theorem sendPixel_eq (p : Pixel) : sendPixel p = bitsFrom (byteOf p 0) 7 ++ bytesAfter p 0 := by
  simp [sendPixel, bytesAfter, frame, byteOf, bitsFrom, sendByte]

theorem bytesAfter_eq (p : Pixel) {j : Fin 4} (h : j.val < 3) :
    bytesAfter p j = bitsFrom (byteOf p (j + 1)) 7 ++ bytesAfter p (j + 1 : Fin 4) := by
  fin_cases j <;> simp at h <;> simp [bytesAfter, frame, byteOf, bitsFrom, sendByte]

theorem remaining_firstPix (efp : Nat) (m : Memory) :
    remaining efp m (firstPix m.length) = (m.map sendPixel).flatten ++ tailEvents efp := by
  cases m with
  | nil => simp [firstPix, remaining]
  | cons p m => simp [firstPix, remaining, bitsOnward, memRead, pixelsAfter, sendPixel_eq]

theorem afterBit_lastBit {n i : Nat} {j : Fin 4} {k : Fin 8} (hk : k.val = 0) : afterBit n i j k =
    if j.val < 3 then .pixBit i (j + 1) 7 .dat
    else if i + 1 < n then .pixBit (i + 1) 0 7 .dat else .endDat := by
  simp [afterBit, hk]

/-- After a bit's last write, what is left is what stood after its three writes. -/
theorem remaining_afterBit {efp : Nat} {m : Memory} {i : Nat} {p : Pixel} (hp : memRead m i = some p) (j : Fin 4)
    (k : Fin 8) : bitsOnward efp m i j k =
      (.dat, bit (byteOf p j) k) :: (.clk, true) :: (.clk, false) :: remaining efp m (afterBit m.length i j k) := by
  by_cases hk : k.val = 0
  · rw [afterBit_lastBit hk]
    split_ifs with h1 h2
    · simp [remaining, bitsOnward, hp, hk, bitsFrom, sendBit, pulse, bytesAfter_eq p h1]
    · obtain rfl : j = 3 := by omega
      obtain ⟨q, hq⟩ := Option.isSome_iff_exists.mp (memRead_isSome h2)
      have hd : m.drop (i + 1) = q :: m.drop (i + 2) := by
        rw [List.drop_eq_getElem_cons h2]
        simp [memRead, h2] at hq
        simp [hq]
      simp [remaining, bitsOnward, hp, hq, hk, pixelsAfter, hd, bitsFrom, sendBit, pulse, bytesAfter, frame,
        sendPixel_eq]
    · obtain rfl : j = 3 := by omega
      have hd : m.drop (i + 1) = [] := by simp; omega
      simp [remaining, bitsOnward, hp, hk, pixelsAfter, hd, bitsFrom, sendBit, pulse, bytesAfter, frame]
  · obtain ⟨k, hlt⟩ := k
    obtain ⟨k, rfl⟩ := Nat.exists_eq_succ_of_ne_zero hk
    have hpred : ((⟨k + 1, hlt⟩ : Fin 8) - 1).val = k := by
      simp [Fin.sub_def]; omega
    simp [afterBit, remaining, bitsOnward, hp, bitsFrom, sendBit, pulse, hpred]

/-- The write of a position is the first of those remaining there; those at the successor are the rest. -/
theorem remaining_step {efp : Nat} {m : Memory} {p : SeqPos} (hp : p ≠ .idle) (hw : p.wf efp m.length = true) :
    ∃ e, writeAt m p = some e ∧ remaining efp m p = e :: remaining efp m (succ efp m.length p) := by
  cases p with
  | idle => exact absurd rfl hp
  | csLow => exact ⟨_, rfl, by simp [remaining, transmitEvents, succ, tailEvents]⟩
  | csHigh => exact ⟨_, rfl, rfl⟩
  | startDat => exact ⟨_, rfl, by simp [remaining, succ, startFrame, Config.startFramePulses]⟩
  | endDat =>
    refine ⟨_, rfl, ?_⟩
    by_cases h : 0 < efp
    · rw [show succ efp m.length .endDat = .endClk 0 .rise from if_pos h]
      simp [remaining, tailEvents, endFrame]
    · rw [show succ efp m.length .endDat = .csHigh from if_neg h]
      simp [remaining, tailEvents, endFrame, show efp = 0 by omega, pulses]
  | startClk k hf =>
    have hk : k < 32 := of_decide_eq_true hw
    cases hf with
    | rise =>
      refine ⟨_, rfl, ?_⟩
      simp only [remaining, succ]
      rw [show 32 - k = (32 - k - 1) + 1 by omega, pulses_succ]
      simp [Half.level]
    | fall =>
      refine ⟨_, rfl, ?_⟩
      by_cases h : k + 1 < 32
      · rw [show succ efp m.length (.startClk k .fall) = .startClk (k + 1) .rise from if_pos h]
        simp [remaining, Half.level, Nat.sub_sub]
      · rw [show succ efp m.length (.startClk k .fall) = firstPix m.length from if_neg h, remaining_firstPix]
        simp [remaining, Half.level, show 32 - k - 1 = 0 by omega, pulses]
  | endClk k hf =>
    have hk : k < efp := of_decide_eq_true hw
    cases hf with
    | rise =>
      refine ⟨_, rfl, ?_⟩
      simp only [remaining, succ]
      rw [show efp - k = (efp - k - 1) + 1 by omega, pulses_succ]
      simp [Half.level]
    | fall =>
      refine ⟨_, rfl, ?_⟩
      by_cases h : k + 1 < efp
      · rw [show succ efp m.length (.endClk k .fall) = .endClk (k + 1) .rise from if_pos h]
        simp [remaining, Half.level, Nat.sub_sub]
      · rw [show succ efp m.length (.endClk k .fall) = .csHigh from if_neg h]
        simp [remaining, Half.level, show efp - k - 1 = 0 by omega, pulses]
  | pixBit i j k st =>
    have hi : i < m.length := of_decide_eq_true hw
    obtain ⟨px, hpx⟩ := Option.isSome_iff_exists.mp (memRead_isSome hi)
    have hr := remaining_afterBit (efp := efp) hpx j k
    cases st with
    | dat => exact ⟨(.dat, bit (byteOf px j) k), by simp [writeAt, hpx], by simp [remaining, succ, hr]⟩
    | rise => exact ⟨(.clk, true), by simp [writeAt, hpx], by simp [remaining, succ, hr]⟩
    | fall => exact ⟨(.clk, false), by simp [writeAt, hpx], by simp [remaining, succ, hr]⟩

/-- What remains at the start is the whole transmission. -/
theorem remaining_csLow (efp : Nat) (m : Memory) : remaining efp m .csLow = transmitEvents efp m := rfl

/-- A list of pin writes changes the latches and the trace, nothing else. -/
theorem pinWrites_eq (es : List PinEvent) (s : State) :
    pinWrites es s = { s with level := es.foldl Levels.drive s.level, trace := s.trace ++ es } := by
  induction es generalizing s with
  | nil => simp [pinWrites]
  | cons e es ih =>
    rw [show pinWrites (e :: es) s = pinWrites es (pinWrite e s) from rfl, ih]
    simp [pinWrite, State.record, delay]

end Sys2Proof.Machine
end

