-- ==== Sys2Proof/Laws/Step.lean ====
section
/-! SUPPORT. What a step, and each command, can do, said once. -/

namespace Sys2Proof.Machine

/-- The state once the port has taken its first word. -/
abbrev State.taken (s : State) (rest : List Word) : State := { s with port := rest }

theorem step_halted {s : State} {v : Violation} (h : s.fault = some v) : step s = .fault (.halted v) := by
  simp [step, h]

theorem step_busy {s : State} (hf : s.fault = none) (hp : s.pos ≠ .idle) : step s = sequencerStep s := by
  simp [step, hf, State.busy, hp]

theorem step_idle {s : State} (hf : s.fault = none) (hp : s.pos = .idle) : step s = accept s := by
  simp [step, hf, State.busy, hp]

/-- Everything a step that answers a next state can have done: a pin write, nothing, a rejected word, or a
command. -/
theorem step_next {s t : State} (h : step s = .next t) :
    s.fault = none ∧
      ((s.pos ≠ .idle ∧ sequencerStep s = .next t) ∨
        (s.pos = .idle ∧ s.port = [] ∧ t = s) ∨
        (s.pos = .idle ∧ ∃ w rest why, s.port = w :: rest ∧ decode w = .illegal why ∧
          t = (s.taken rest).withFault (.illegalCommand w)) ∨
        (s.pos = .idle ∧ ∃ w rest i, s.port = w :: rest ∧ decode w = .cmd i ∧ exec i (s.taken rest) = .next t)) := by
  cases hf : s.fault with
  | some v => rw [step_halted hf] at h; cases h
  | none =>
    refine ⟨rfl, ?_⟩
    by_cases hp : s.pos = .idle
    · rw [step_idle hf hp] at h
      unfold accept at h
      cases hw : s.port with
      | nil =>
        rw [fetch_nil hw] at h
        exact .inr (.inl ⟨hp, rfl, (Host.Outcome.next.inj h).symm⟩)
      | cons w rest =>
        rw [fetch_cons hw] at h
        cases hd : decode w with
        | illegal why =>
          simp only [hd, rejectWord, raise] at h
          exact .inr (.inr (.inl ⟨hp, w, rest, why, rfl, hd, (Host.Outcome.next.inj h).symm⟩))
        | cmd i =>
          simp only [hd] at h
          exact .inr (.inr (.inr ⟨hp, w, rest, i, rfl, hd, h⟩))
    · rw [step_busy hf hp] at h
      exact .inl ⟨hp, h⟩

theorem steps_next {s t : State} (h : step s = .next t) (k : Nat) : steps (k + 1) s = steps k t := by
  simp [steps, h]

/-- What a command does once it may start (spec/40_strip_ops.md R103, R106, R109, R112; spec/41_device_ops.md R133,
R136, R141). -/
def Did (i : Instr) (s t : State) : Prop :=
  match i with
  | .init => t = withLines (reply .ok) s
  | .setPixel index r g b bright =>
    (∃ q, quantize s.cfg.quantMode bright = some q ∧ index.toNat < s.buf.length ∧
      t = reply .ok (s.setBuf (memWrite s.buf index.toNat ⟨r, g, b, q⟩))) ∨
    (∃ q, quantize s.cfg.quantMode bright = some q ∧ s.buf.length ≤ index.toNat ∧
      t = s.withFault (.indexOutOfRange index)) ∨
    (quantize s.cfg.quantMode bright = none ∧ t = s.withFault (.brightnessOutOfRange bright))
  | .setAll r g b bright =>
    (∃ q, quantize s.cfg.quantMode bright = some q ∧ t = reply .ok (s.setBuf (memFill s.buf ⟨r, g, b, q⟩))) ∨
    (quantize s.cfg.quantMode bright = none ∧ t = s.withFault (.brightnessOutOfRange bright))
  | .setBrightness bright =>
    (∃ q, quantize s.cfg.quantMode bright = some q ∧ t = reply .ok (s.setBuf (memSetBrightness s.buf q))) ∨
    (quantize s.cfg.quantMode bright = none ∧ t = s.withFault (.brightnessOutOfRange bright))
  | .clear => t = reply .ok (s.setBuf (memBlank s.buf))
  | .showStrip => t = withLines (beginTransmit .showing) s
  | .shutdown =>
    (s.initialized = true ∧ t = beginTransmit .shuttingDown (s.setBuf (memBlank s.buf))) ∨
    (s.initialized = false ∧ t = retire (s.setBuf (memBlank s.buf)))

/-- A command behind its gate. -/
def bodyOf (i : Instr) : State → Result :=
  match i with
  | .init => fun t => .next (withLines (reply .ok) t)
  | .setPixel index r g b bright =>
    withBrightness bright fun q =>
      withIndex index fun i t => .next (reply .ok (t.setBuf (memWrite t.buf i ⟨r, g, b, q⟩)))
  | .setAll r g b bright =>
    withBrightness bright fun q t => .next (reply .ok (t.setBuf (memFill t.buf ⟨r, g, b, q⟩)))
  | .setBrightness bright =>
    withBrightness bright fun q t => .next (reply .ok (t.setBuf (memSetBrightness t.buf q)))
  | .clear => fun t => .next (reply .ok (t.setBuf (memBlank t.buf)))
  | .showStrip => fun t => .next (withLines (beginTransmit .showing) t)
  | .shutdown => fun t =>
    .next (if t.initialized then beginTransmit .shuttingDown (t.setBuf (memBlank t.buf))
      else retire (t.setBuf (memBlank t.buf)))

theorem exec_eq_command (i : Instr) (s : State) : exec i s = command (opcodeOf i) (bodyOf i) s := by
  cases i <;> rfl

theorem bodyOf_next {i : Instr} {s t : State} (h : bodyOf i s = .next t) : Did i s t := by
  cases i with
  | init => exact (Host.Outcome.next.inj h).symm
  | clear => exact (Host.Outcome.next.inj h).symm
  | showStrip => exact (Host.Outcome.next.inj h).symm
  | setPixel index r g b bright =>
    simp only [bodyOf] at h
    rcases withBrightness_next h with ⟨q, hq, h⟩ | h
    · rcases withIndex_next h with ⟨hi, h⟩ | ⟨hi, h⟩
      · exact .inl ⟨q, hq, hi, (Host.Outcome.next.inj h).symm⟩
      · exact .inr (.inl ⟨q, hq, hi, h⟩)
    · exact .inr (.inr h)
  | setAll r g b bright =>
    simp only [bodyOf] at h
    rcases withBrightness_next h with ⟨q, hq, h⟩ | h
    · exact .inl ⟨q, hq, (Host.Outcome.next.inj h).symm⟩
    · exact .inr h
  | setBrightness bright =>
    simp only [bodyOf] at h
    rcases withBrightness_next h with ⟨q, hq, h⟩ | h
    · exact .inl ⟨q, hq, (Host.Outcome.next.inj h).symm⟩
    · exact .inr h
  | shutdown =>
    have ht := (Host.Outcome.next.inj h).symm
    cases hi : s.initialized with
    | true => exact .inl ⟨hi, by simpa [hi] using ht⟩
    | false => exact .inr ⟨hi, by simpa [hi] using ht⟩

/-- Everything a command that answers a next state can have done: the fault of a retired block, or its own
effect. -/
theorem exec_next {i : Instr} {s t : State} (h : exec i s = .next t) :
    s.fault = none ∧ s.pos = .idle ∧
      ((s.released = true ∧ t = s.withFault (.useAfterShutdown (opcodeOf i))) ∨ (s.released = false ∧ Did i s t)) := by
  rw [exec_eq_command] at h
  obtain ⟨hf, hp, h' | ⟨hr, hb⟩⟩ := command_next h
  · exact ⟨hf, hp, .inl h'⟩
  · exact ⟨hf, hp, .inr ⟨hr, bodyOf_next hb⟩⟩

end Sys2Proof.Machine
end

