-- ==== Sys2Proof/Tests/Slice0.lean ====
section
/-! SUPPORT. Tests and witnesses. Every expected result is from spec/95_test_vectors.md or written out by hand from the
rule named; a witness shows a state and operands that meet all hypotheses of the obligation in its name. -/

namespace Sys2Proof.Tests

open Sys2Proof.Machine Sys2Proof.Stated

/-! ### Small blocks -/

/-- Three line numbers of the tests' own, and the spec's defaults. -/
def cfg : Config := ⟨1, 2, 3, 0, 1, 36, .exact⟩

/-- A block with that buffer, otherwise just constructed. -/
def block (m : Memory) : State := { State.construct cfg 0 with buf := m }

/-- The same with the lines held. -/
def held (m : Memory) : State := { block m with initialized := true }

/-- A block in the middle of SHOW. -/
def sending (m : Memory) (p : SeqPos) (l : Levels) : State :=
  { held m with pos := p, level := l, running := some .showing }

/-- A block in the middle of SHUTDOWN. -/
def stopping (m : Memory) (p : SeqPos) (l : Levels) : State :=
  { sending m p l with running := some .shuttingDown }

/-- A block whose host has that word to issue, and whose platform has that answer to give. -/
def given (s : State) (w : Word) (a : Answer) : State := { s with port := [w], answers := [a] }

/-- The next state of an outcome. -/
def after : Result → Option State
  | .next s => some s
  | .fault _ => none
  | .refused _ => none

def red : Pixel := ⟨255, 0, 0, 31⟩
def dim : Pixel := ⟨1, 2, 3, 7⟩

def half : Binary32 := 0x3F000000
def one : Binary32 := 0x3F800000
def nan : Binary32 := 0x7FC00000
def aboveOne : Binary32 := 0x3F800001

def wordInit : Word := 0x01000000000000000000000000000000
def wordClear : Word := 0x05000000000000000000000000000000
def wordShow : Word := 0x06000000000000000000000000000000
def wordShutdown : Word := 0x07000000000000000000000000000000
def wordPixelTwo : Word := 0x02000000000000023f80000000010101

/-- Levels in the middle of a transmission: chip-select low, clock low, data low. -/
def low : Levels := ⟨some false, some false, some false⟩

/-! ### Well-formedness: an ill-formed term for each check -/

/-- 95_test_vectors.md V2: reserved opcodes, `res0`, `res1`. -/
theorem test_word_ill_formed_reserved :
    legalWord 0x00000000000000000000000000000000 = false ∧ legalWord 0x08000000000000000000000000000000 = false ∧
    legalWord 0x02000001000000003f80000000000000 = false ∧ legalWord 0x02000000000000003f80000001000000 = false := by
  decide

/-- 95_test_vectors.md V2: fields that the opcode does not use. -/
theorem test_word_ill_formed_unused :
    legalWord 0x01000000000000000000000000000001 = false ∧ legalWord 0x03000000000000013f80000000000000 = false ∧
    legalWord 0x04000000000000003f80000000010000 = false ∧ legalWord 0x05000000000000010000000000000000 = false := by
  decide

/-- 00_scope.md R7: the three line numbers are distinct. -/
theorem test_config_ill_formed :
    ({ cfg with pinClk := 1 } : Config).wf = false ∧ ({ cfg with pinCs := 1 } : Config).wf = false ∧
    ({ cfg with pinCs := 2 } : Config).wf = false ∧ cfg.wf = true := by decide

/-- 10_state.md R22: no brightness above 31. -/
theorem test_memory_ill_formed :
    Memory.wf [red, ⟨0, 0, 0, 32⟩] = false ∧ Memory.wf [red, ⟨0, 0, 0, 31⟩] = true := by decide

/-- 10_state.md R27: `Fin 32`, `Fin N`, `Fin 36`. -/
theorem test_position_ill_formed :
    SeqPos.wf 36 2 (.startClk 32 .rise) = false ∧ SeqPos.wf 36 2 (.pixBit 2 0 0 .dat) = false ∧
    SeqPos.wf 36 2 (.endClk 36 .fall) = false ∧ SeqPos.wf 36 2 (.startClk 31 .fall) = true ∧
    SeqPos.wf 36 2 (.pixBit 1 3 0 .dat) = true ∧ SeqPos.wf 36 2 (.endClk 35 .rise) = true := by decide

/-! ### Decoding: words written out from 30_encoding.md R70 and R71 -/

/-- The word of each command, its fields concatenated by hand: opc, res0, idx, bri, res1, red, grn, blu. -/
theorem test_decode_by_fields :
    decode (0x01#8 ++ 0#24 ++ 0#32 ++ 0#32 ++ 0#8 ++ 0#8 ++ 0#8 ++ 0#8) = .cmd .init ∧
    decode (0x02#8 ++ 0#24 ++ 0xFFFFFFFF#32 ++ 0x3F000000#32 ++ 0#8 ++ 1#8 ++ 2#8 ++ 3#8) =
      .cmd (.setPixel 0xFFFFFFFF 1 2 3 half) ∧
    decode (0x03#8 ++ 0#24 ++ 0#32 ++ 0x3F800000#32 ++ 0#8 ++ 0x10#8 ++ 0x20#8 ++ 0x30#8) =
      .cmd (.setAll 0x10 0x20 0x30 one) ∧
    decode (0x04#8 ++ 0#24 ++ 0#32 ++ 0x80000000#32 ++ 0#8 ++ 0#8 ++ 0#8 ++ 0#8) =
      .cmd (.setBrightness 0x80000000) ∧
    decode (0x05#8 ++ 0#24 ++ 0#32 ++ 0#32 ++ 0#8 ++ 0#8 ++ 0#8 ++ 0#8) = .cmd .clear ∧
    decode (0x06#8 ++ 0#24 ++ 0#32 ++ 0#32 ++ 0#8 ++ 0#8 ++ 0#8 ++ 0#8) = .cmd .showStrip ∧
    decode (0x07#8 ++ 0#24 ++ 0#32 ++ 0#32 ++ 0#8 ++ 0#8 ++ 0#8 ++ 0#8) = .cmd .shutdown := by decide

/-- 95_test_vectors.md P2: words 1, 2 and 4, and P1: word 1, as the encoder writes them. -/
theorem test_encode_programs :
    encode (.setPixel 0 123 234 12 one) = 0x02000000000000003f800000007bea0c ∧
    encode (.setPixel 2 12 58 123 0) = 0x020000000000000200000000000c3a7b ∧
    encode (.setPixel 1 1 2 3 0x3E800000) = 0x02000000000000013e80000000010203 ∧
    encode (.setAll 255 0 0 one) = 0x03000000000000003f80000000ff0000 ∧
    encode (.setBrightness half) = 0x04000000000000003f00000000000000 := by decide

/-- 20_memory.md R54: big-endian; and a carrier of fifteen bytes is no word (log entry 15). -/
theorem test_decode_bytes :
    decodeBytes [0x02, 0, 0, 0, 0, 0, 0, 2, 0x3F, 0x80, 0, 0, 0, 1, 1, 1] = .cmd (.setPixel 2 1 1 1 one) ∧
    decodeBytes [0x05, 0, 0, 0, 0, 0, 0, 0, 0, 0, 0, 0, 0, 0, 0] = .illegal .notOneWord := by decide

/-- The table numbers the bits of the one word. -/
theorem test_decode_table_word :
    decodeTableWord 128 0x04000000000000003f00000000000000 = some (.setBrightness half) ∧
    decodeTableWord 128 0x04000000000000003f00000000000001 = none := by decide

/-! ### The brightness operand (95_test_vectors.md V1) -/

theorem test_quantize_exact :
    [0, 0x80000000, 1, 0x3DCCCCCD, 0x3D042108, 0x3E800000, half, 0x3F400000, 0x3F7FFFFF, one].map
      (quantize .exact) = [0, 0, 0, 3, 1, 8, 16, 23, 31, 31].map some := by decide

theorem test_quantize_binary32 :
    [0, 0x80000000, 1, 0x3DCCCCCD, 0x3D042108, 0x3E800000, half, 0x3F400000, 0x3F7FFFFF, one].map
      (quantize .binary32) = [0, 0, 0, 3, 1, 8, 16, 23, 31, 31].map some := by decide

theorem test_quantize_faults :
    [aboveOne, nan, 0x7F800000, 0xFF800000, 0xBF800000, 0x80000001].map (quantize .exact) =
      List.replicate 6 none := by decide

theorem test_quantize_modes_differ :
    quantize .exact 0x3C842108 = some 0 ∧ quantize .binary32 0x3C842108 = some 1 ∧
    quantize .exact 0x3F739CE7 = some 29 ∧ quantize .binary32 0x3F739CE7 = some 30 := by decide

/-! ### The buffer commands -/

/-- V3: `set_pixel 3, 1, 2, 3, 0.5` with N = 4, the last legal index. -/
theorem test_set_pixel_last :
    (after (exec (.setPixel 3 1 2 3 half) (block (List.replicate 4 Pixel.zero)))).map (·.buf) =
      some [⟨0, 0, 0, 0⟩, ⟨0, 0, 0, 0⟩, ⟨0, 0, 0, 0⟩, ⟨1, 2, 3, 16⟩] := by decide

/-- V3: `set_pixel 5, 0, 0, 0, #0x7FC00000` with N = 1: brightness before index. -/
theorem test_set_pixel_order :
    (after (exec (.setPixel 5 0 0 0 nan) (block [Pixel.zero]))).map (·.fault) =
      some (some (.brightnessOutOfRange 0x7FC00000)) := by decide

/-- V4: `set_all 10, 20, 30, 0.25`. -/
theorem test_set_all :
    (after (exec (.setAll 10 20 30 0x3E800000) (block [⟨1, 2, 3, 4⟩, ⟨5, 6, 7, 8⟩, ⟨9, 9, 9, 9⟩]))).map (·.buf) =
      some [⟨10, 20, 30, 8⟩, ⟨10, 20, 30, 8⟩, ⟨10, 20, 30, 8⟩] := by decide

/-- V4: with N = 0 a bad brightness faults. -/
theorem test_set_all_empty :
    (after (exec (.setAll 1 2 3 aboveOne) (block []))).map (·.fault) =
      some (some (.brightnessOutOfRange 0x3F800001)) := by decide

/-- V5: `set_brightness 0.0`. -/
theorem test_set_brightness_zero :
    (after (exec (.setBrightness 0) (block [⟨1, 2, 3, 31⟩, ⟨4, 5, 6, 7⟩]))).map (·.buf) =
      some [⟨1, 2, 3, 0⟩, ⟨4, 5, 6, 0⟩] := by decide

/-- V5: `set_brightness #0x7F800000`. -/
theorem test_set_brightness_infinite :
    (after (exec (.setBrightness 0x7F800000) (block [red]))).map (fun t => (t.buf, t.fault)) =
      some ([red], some (.brightnessOutOfRange 0x7F800000)) := by decide

/-- V6. -/
theorem test_clear :
    (after (exec .clear (block [⟨1, 2, 3, 4⟩, ⟨5, 6, 7, 0⟩]))).map (fun t => (t.buf, t.trace)) =
      some ([⟨0, 0, 0, 4⟩, ⟨0, 0, 0, 0⟩], []) := by decide

/-! ### The device commands -/

/-- V11: `init` with the draw Success. -/
theorem test_init_success :
    (after (exec .init { block [red] with answers := [.success] })).map
      (fun t => (t.initialized, t.trace, t.replies)) = some (true, [], [.ok]) := by decide

/-- V11: `init` with the draw Failure. -/
theorem test_init_failure :
    (after (exec .init { block [red] with answers := [.failure 7] })).map
      (fun t => (t.initialized, t.trace, t.replies)) = some (false, [], [.deviceError 7]) := by decide

/-- V11: `show` with the draw Failure. -/
theorem test_show_failure :
    (after (exec .showStrip { block [red] with answers := [.failure 7] })).map
      (fun t => (t.initialized, t.pos, t.trace, t.replies)) = some (false, .idle, [], [.deviceError 7]) := by decide

/-- 42_serializer.md R174: "A transmission begins by setting `pos <- CsLow`", and chip-select goes low first. -/
theorem test_show_begins :
    ((after (exec .showStrip (held [red]))).bind fun t => after (step t)).map
      (fun t => (t.pos, t.trace, t.level.cs)) = some (.startDat, [(.cs, false)], some false) := by decide

/-- V12: SHUTDOWN without the lines. -/
theorem test_shutdown_unheld :
    (after (exec .shutdown (block [⟨0, 0, 255, 31⟩]))).map
      (fun t => (t.buf, t.released, t.trace, t.asked)) = some ([⟨0, 0, 0, 31⟩], true, [], 0) := by decide

/-- V12: the last write of SHUTDOWN releases and retires. -/
theorem test_shutdown_last_write :
    (after (step (stopping [⟨0, 0, 0, 31⟩] .csHigh low))).map
      (fun t => (t.initialized, t.released, t.pos, t.level)) = some (false, true, .idle, ⟨none, none, none⟩) ∧
    (after (step (stopping [⟨0, 0, 0, 31⟩] .csHigh low))).map (fun t => (t.trace, t.replies)) =
      some ([(.cs, true)], [.ok]) := by decide

/-- P5: `show` after SHUTDOWN. -/
theorem test_use_after_shutdown :
    (after (step (given { block [red] with released := true } wordShow .success))).map (·.fault) =
      some (some (.useAfterShutdown 0x06)) := by decide

/-- P4: a halted block has no step. -/
theorem test_halted :
    step { block [red] with fault := some (.indexOutOfRange 2) } = .fault (.halted (.indexOutOfRange 2)) := rfl

/-! ### The serializer -/

/-- E6. -/
theorem test_bit_table :
    (List.range 8).map (bit 0x15) = [true, false, true, false, true, false, false, false] := by decide

/-- V7. -/
theorem test_mapper :
    [red, ⟨123, 234, 12, 31⟩, ⟨12, 58, 123, 0⟩, dim, ⟨10, 20, 30, 16⟩].map ledFrame =
      [0xFF0000FF, 0xFF0CEA7B, 0xE07B3A0C, 0xE7030201, 0xF01E140A] ∧
    frame ⟨123, 234, 12, 31⟩ = [0xFF, 0x0C, 0xEA, 0x7B] := by decide

/-- V8: the data levels of 0x15, and one bit's three writes. -/
theorem test_send_byte :
    ((sendByte 0x15).filter fun e => e.1 == .dat).map (·.2) =
      [false, false, false, true, false, true, false, true] ∧
    (sendByte 0xE7).take 3 = [(.dat, true), (.clk, true), (.clk, false)] := by decide

/-- V9: the successors with N = 2. -/
theorem test_successors :
    [SeqPos.csLow, .startDat, .startClk 31 .fall, .pixBit 0 0 0 .fall, .pixBit 0 3 0 .fall, .pixBit 1 3 0 .fall,
      .endDat, .endClk 35 .fall, .csHigh].map (succ 36 2) =
    [.startDat, .startClk 0 .rise, .pixBit 0 0 7 .dat, .pixBit 0 1 7 .dat, .pixBit 1 0 7 .dat, .endDat,
      .endClk 0 .rise, .csHigh, .idle] ∧ succ 36 0 (.startClk 31 .fall) = .endDat := by decide

/-- V9: the writes. -/
theorem test_writes :
    [SeqPos.csLow, .startDat, .startClk 31 .fall, .pixBit 0 3 0 .fall, .pixBit 0 3 0 .dat, .endDat, .endClk 35 .fall,
      .csHigh, .idle].map (writeAt [red, dim]) =
    [some (.cs, false), some (.dat, false), some (.clk, false), some (.clk, false), some (.dat, true),
      some (.dat, false), some (.clk, false), some (.cs, true), none] := by decide

/-- 42_serializer.md R176, 70_reset_and_hazards.md R240: the first clock write from an unknown level, both ways. -/
theorem test_first_edge :
    wireReadings ⟨some false, none, some false⟩ (pulses 2) = [[some false, some false], [some false]] := by decide

set_option maxRecDepth 4000 in
/-- V10, N = 1: the wire bits, and without the first one where the first clock write is no edge. -/
theorem test_wire_bits :
    wireBits true Levels.unknown (transmitEvents 36 [red]) =
      (List.replicate 32 false ++ frameBits 0xFF0000FF ++ List.replicate 36 false).map some ∧
    wireBits false Levels.unknown (transmitEvents 36 [red]) =
      (List.replicate 31 false ++ frameBits 0xFF0000FF ++ List.replicate 36 false).map some := ⟨rfl, rfl⟩

/-! ### The step from reset -/

/-- A word placed for fetching is run by the very next step: `clear` answers Ok. -/
theorem test_step_from_reset :
    (after (step (State.reset.withFetchWord 128 0x05000000000000000000000000000000))).map
      (fun t => (t.port, t.fault, t.replies)) = some ([], none, [.ok]) := by decide

/-- V2: "An IllegalCommand fault records the whole word." -/
theorem test_illegal_from_reset :
    (after (step (State.reset.withFetchWord 128 0x08000000000000000000000000000000))).map (·.fault) =
      some (some (.illegalCommand 0x08000000000000000000000000000000)) := by decide

/-! ### What the witnesses rest on -/

/-- R77 on a positive normal number. -/
theorem binVal_normal {b : Binary32} {e f : Nat} (hs : b.getLsbD 31 = false)
    (he : (b.extractLsb' 23 8).toNat = e) (hf : (b.extractLsb' 0 23).toNat = f) (h255 : e ≠ 255) (h0 : e ≠ 0) :
    binVal b = some ((2 ^ 23 + f) * (2 : ℚ) ^ ((e : ℤ) - 150)) := by
  simp only [binVal, hs, he, hf, if_neg h255, if_neg h0, Bool.false_eq_true, if_false, one_mul]

theorem inContract_half : InContract half := by
  refine ⟨1 / 2, ?_, by norm_num, by norm_num⟩
  rw [binVal_normal (e := 126) (f := 0) (by decide) (by decide) (by decide) (by decide) (by decide)]
  norm_num

theorem inContract_one : InContract one := by
  refine ⟨1, ?_, by norm_num, by norm_num⟩
  rw [binVal_normal (e := 127) (f := 0) (by decide) (by decide) (by decide) (by decide) (by decide)]
  norm_num

theorem not_inContract_nan : ¬ InContract nan := by
  rintro ⟨v, h, -⟩
  have he : (nan.extractLsb' 23 8).toNat = 255 := by decide
  simp [binVal, he] at h

theorem not_inContract_aboveOne : ¬ InContract aboveOne := by
  rintro ⟨v, h, -, h1⟩
  rw [binVal_normal (e := 127) (f := 1) (by decide) (by decide) (by decide) (by decide) (by decide)] at h
  rw [← Option.some.inj h] at h1
  norm_num at h1

theorem accepting_block (m : Memory) : Accepting (block m) := ⟨rfl, rfl, rfl⟩

theorem accepting_held (m : Memory) : Accepting (held m) := ⟨rfl, rfl, rfl⟩

/-- The invariant of a small block is a finite check. -/
theorem inv_block : BlockInv (block [red, dim]) := by constructor <;> decide

theorem inv_held : BlockInv (held [red, dim]) := by constructor <;> decide

theorem inv_startDat : BlockInv (sending [red] .startDat ⟨none, none, some false⟩) := by constructor <;> decide

theorem inv_pixBit : BlockInv (sending [red] (.pixBit 0 3 0 .dat) low) := by constructor <;> decide

theorem inv_rise : BlockInv (sending [red] (.startClk 0 .rise) ⟨some false, none, some false⟩) := by
  constructor <;> decide

theorem inv_csLow : BlockInv (sending [red] .csLow Levels.unknown) := by constructor <;> decide

theorem inv_csHigh : BlockInv (sending [red] .csHigh low) := by constructor <;> decide

theorem inv_stopping : BlockInv (stopping [red] .csHigh low) := by constructor <;> decide

/-! ### Witnesses -/

theorem witness_InvariantHoldsAtConstruction : cfg.wf = true ∧ 2 ^ 32 ≤ 2 ^ 32 ∧ 0 ≤ 2 ^ 32 := by decide

theorem witness_StepKeepsInvariant :
    (∃ t, BlockInv (block [red, dim]) ∧ step (block [red, dim]) = .next t) ∧
    (∃ t, BlockInv (stopping [red] .csHigh low) ∧ step (stopping [red] .csHigh low) = .next t) :=
  ⟨⟨_, inv_block, rfl⟩, ⟨_, inv_stopping, rfl⟩⟩

theorem witness_UnfaultedBlockAlwaysSteps :
    BlockInv (sending [red] .startDat ⟨none, none, some false⟩) ∧
      (sending [red] .startDat ⟨none, none, some false⟩).fault = none := ⟨inv_startDat, rfl⟩

theorem witness_EncodeInvertsDecode : decode 0x04000000000000003f00000000000000 = .cmd (.setBrightness half) := by decide

theorem witness_LegalWordsAreTableRows :
    legalWord wordInit = true ∧ decode wordInit = .cmd .init ∧
      legalWord 0x08000000000000000000000000000000 = false := by decide

/-- One word for each clause, each at its least value. -/
theorem witness_IllegalWordIsRecorded :
    (block []).fault = none ∧ (block []).pos = .idle ∧
    (given (block []) 0 .success).port = [0] ∧
    (0 : Word).extractLsb' 120 8 = 0 ∧
    8 ≤ ((0x08000000000000000000000000000000 : Word).extractLsb' 120 8).toNat ∧
    (0x02000001000000003f80000000000000 : Word).extractLsb' 96 24 ≠ 0 ∧
    (0x02000000000000003f80000001000000 : Word).extractLsb' 24 8 ≠ 0 ∧
    ((0x01000000000000000000000000000001 : Word).extractLsb' 120 8 = 1 ∧
      (0x01000000000000000000000000000001 : Word).extractLsb' 0 96 ≠ 0) ∧
    ((0x03000000000000013f80000000000000 : Word).extractLsb' 120 8 = 3 ∧
      (0x03000000000000013f80000000000000 : Word).extractLsb' 64 32 ≠ 0) ∧
    ((0x04000000000000003f80000000010000 : Word).extractLsb' 120 8 = 4 ∧
      (0x04000000000000003f80000000010000 : Word).extractLsb' 0 24 ≠ 0) := by decide

theorem witness_CarrierIsBigEndian :
    15 < 16 ∧ decode 0x04000000000000003f00000000000000 = .cmd (.setBrightness 0x3F000000) := by decide

theorem witness_StepRunsDecodedCommand :
    (given (block []) wordClear .success).fault = none ∧ (given (block []) wordClear .success).pos = .idle ∧
    (given (block []) wordClear .success).port = [wordClear] ∧ decode wordClear = .cmd .clear := by decide

theorem witness_HaltedBlockTakesNoStep :
    ((block [red]).withFault (.indexOutOfRange 2)).fault = some (.indexOutOfRange 2) := rfl

theorem witness_IdleBlockKeepsItsState :
    (block [red]).fault = none ∧ (block [red]).pos = .idle ∧ (block [red]).port = [] := ⟨rfl, rfl, rfl⟩

theorem witness_TransmissionTakesNoCommand :
    (sending [red] .startDat low).fault = none ∧ (sending [red] .startDat low).pos ≠ .idle ∧
      ∃ t, step (sending [red] .startDat low) = .next t := ⟨rfl, by decide, _, rfl⟩

/-- A write in the middle, and the last one of SHUTDOWN. -/
theorem witness_PinWriteIsRecordedAndDriven :
    (∃ t, (sending [red] .startDat low).pos ≠ .idle ∧ step (sending [red] .startDat low) = .next t) ∧
    (∃ t, (stopping [red] .csHigh low).pos ≠ .idle ∧ step (stopping [red] .csHigh low) = .next t ∧
      t.pos = .idle) := ⟨⟨_, by decide, rfl⟩, ⟨_, by decide, rfl, rfl⟩⟩

theorem witness_OneWayState :
    ∃ t, step { block [red] with released := true } = .next t := ⟨_, rfl⟩

/-- The flag set by INIT, and cleared at the end of SHUTDOWN. -/
theorem witness_HandleChangesOnlyByAcquisitionAndShutdown :
    (∃ t, step (given (block [red]) wordInit .success) = .next t ∧
      (given (block [red]) wordInit .success).initialized = false ∧ t.initialized = true) ∧
    (∃ t, step (stopping [red] .csHigh low) = .next t ∧
      (stopping [red] .csHigh low).initialized = true ∧ t.initialized = false) :=
  ⟨⟨_, rfl, rfl, rfl⟩, ⟨_, rfl, rfl, rfl⟩⟩

/-- Asked by SHOW, by INIT with a success, and not asked by INIT with the lines held. -/
theorem witness_SetupIsIdempotent :
    (∃ t, step (given (block [red]) wordShow (.failure 7)) = .next t ∧
      t.asked ≠ (given (block [red]) wordShow (.failure 7)).asked) ∧
    (∃ t, step (given (block [red]) wordInit .success) = .next t ∧
      t.asked ≠ (given (block [red]) wordInit .success).asked ∧
      nextAnswer (given (block [red]) wordInit .success) = .success) ∧
    (∃ t, (held [red]).initialized = true ∧ exec .init (held [red]) = .next t) ∧
    (Accepting (block [red]) ∧ (block [red]).initialized = false) :=
  ⟨⟨_, rfl, by decide⟩, ⟨_, rfl, by decide, rfl⟩, ⟨_, rfl, rfl⟩, accepting_block _, rfl⟩

theorem witness_DeviceErrorOnlyFromAcquisition :
    (∃ t, step (given (block [red]) wordShow (.failure 7)) = .next t ∧ t.replies = [.deviceError 7]) ∧
    (Accepting (given (block [red]) wordInit (.failure 7)) ∧
      (given (block [red]) wordInit (.failure 7)).initialized = false ∧
      nextAnswer (given (block [red]) wordInit (.failure 7)) = .failure 7) :=
  ⟨⟨_, rfl, rfl⟩, ⟨rfl, rfl, rfl⟩, rfl, rfl⟩

theorem witness_FaultsArePrecise :
    ∃ t, step (given (block [red, dim]) wordPixelTwo .success) = .next t ∧
      t.fault = some (.indexOutOfRange 2) := ⟨_, rfl, rfl⟩

theorem witness_BrightnessReadingIsBinary32 :
    contractUnits one = some (2 ^ 149) ∧ contractUnits 0x80000000 = some 0 := by decide

/-- In contract at both ends and in the middle, and outside. -/
theorem witness_QuantizeIsRoundedProduct :
    ¬ InContract aboveOne ∧ (∃ v, binVal half = some v ∧ 0 ≤ v ∧ v ≤ 1) ∧ (∃ v, binVal one = some v ∧ 0 ≤ v ∧ v ≤ 1) :=
  ⟨not_inContract_aboveOne, inContract_half, inContract_one⟩

/-- Monotone: 0.5 and 1.0; the tie: 0.5. -/
theorem witness_QuantizeProperties :
    (∃ x y, binVal half = some x ∧ binVal one = some y ∧ x ≤ y) ∧
    quantize .binary32 half = some 16 ∧ quantize .binary32 one = some 31 ∧ 31 ≤ 31 ∧
    (∃ v, binVal half = some v ∧ 0 ≤ v ∧ v ≤ 1 ∧ 31 * v = ((15 : ℤ) : ℚ) + 1 / 2) := by
  have hh : binVal half = some (1 / 2) := by
    rw [binVal_normal (e := 126) (f := 0) (by decide) (by decide) (by decide) (by decide) (by decide)]
    norm_num
  have ho : binVal one = some 1 := by
    rw [binVal_normal (e := 127) (f := 0) (by decide) (by decide) (by decide) (by decide) (by decide)]
    norm_num
  exact ⟨⟨_, _, hh, ho, by norm_num⟩, by decide, by decide, le_rfl, _, hh, by norm_num, by norm_num, by norm_num⟩

theorem witness_ModesDifferOnListedInputs : ((0x3C842108 : Binary32), 0) ∈ listedInputs := by decide

theorem witness_BrightnessOutOfRangeIsRecorded :
    Accepting (block [red]) ∧ ¬ InContract nan ∧
      ∃ t, exec (.setBrightness nan) (block [red]) = .next t ∧ t.fault = some (.brightnessOutOfRange nan) :=
  ⟨accepting_block _, not_inContract_nan, _, rfl, rfl⟩

/-- The first and the last index, and one that faults. -/
theorem witness_SetPixelWritesItsRecord :
    (Accepting (block [red, dim]) ∧ quantize (block [red, dim]).cfg.quantMode half = some 16 ∧
      (0 : Index).toNat < (block [red, dim]).buf.length ∧ (1 : Index).toNat < (block [red, dim]).buf.length) ∧
    ∃ t, exec (.setPixel 2 0 0 0 half) (block [red, dim]) = .next t ∧ 1 ≠ (2 : Index).toNat :=
  ⟨⟨accepting_block _, by decide, by decide, by decide⟩, _, rfl, by decide⟩

theorem witness_IndexOutOfRangeIsRecorded :
    (Accepting (block [red, dim]) ∧ InContract half ∧ (block [red, dim]).buf.length ≤ (2 : Index).toNat) ∧
    ∃ t, exec (.setPixel 2 0 0 0 half) (block [red, dim]) = .next t ∧ t.fault = some (.indexOutOfRange 2) :=
  ⟨⟨accepting_block _, inContract_half, by decide⟩, _, rfl, rfl⟩

theorem witness_SetAllWritesEveryRecord :
    Accepting (block [red, dim]) ∧ quantize (block [red, dim]).cfg.quantMode one = some 31 ∧
      1 < (block [red, dim]).buf.length := ⟨accepting_block _, by decide, by decide⟩

theorem witness_SetAllIsSetPixelEverywhere :
    Accepting (block [red]) ∧ 1 ≤ (block [red]).buf.length ∧ (block [red]).buf.length ≤ 2 ^ 32 :=
  ⟨accepting_block _, by decide, by decide⟩

theorem witness_EmptySetAllChecksBrightness :
    Accepting (block []) ∧ (block []).buf = [] ∧ ¬ InContract aboveOne ∧ InContract one :=
  ⟨accepting_block _, rfl, not_inContract_aboveOne, inContract_one⟩

theorem witness_SetBrightnessKeepsColours :
    Accepting (block [red, dim]) ∧ quantize (block [red, dim]).cfg.quantMode half = some 16 ∧
      memRead (block [red, dim]).buf 1 = some dim ∧
      ∃ t, exec (.setBrightness nan) (block [red, dim]) = .next t := ⟨accepting_block _, by decide, rfl, _, rfl⟩

theorem witness_ClearKeepsBrightness :
    Accepting (block [red, dim]) ∧ memRead (block [red, dim]).buf 1 = some dim ∧
      ∃ t, exec .clear { block [red, dim] with released := true } = .next t := ⟨accepting_block _, rfl, _, rfl⟩

/-- A buffer command; a step that writes a pin; a step that begins a transmission. -/
theorem witness_BufferCommandsLeaveLinesAlone :
    (∃ t, IsBufferCommand .clear ∧ exec .clear (held [red]) = .next t) ∧
    (∃ t, step (sending [red] .startDat low) = .next t ∧ t.trace ≠ []) ∧
    (∃ t, step (given (held [red]) wordShutdown .success) = .next t ∧
      (given (held [red]) wordShutdown .success).pos = .idle ∧ t.pos ≠ .idle) :=
  ⟨⟨_, trivial, rfl⟩, ⟨_, rfl, by decide⟩, _, rfl, rfl, by decide⟩

/-- The lines held; a success; a failure. -/
theorem witness_InitAcquiresTheLines :
    (Accepting (held [red]) ∧ (held [red]).initialized = true) ∧
    (Accepting (given (block [red]) wordInit .success) ∧
      (given (block [red]) wordInit .success).initialized = false ∧
      nextAnswer (given (block [red]) wordInit .success) = .success) ∧
    nextAnswer (given (block [red]) wordInit (.failure 7)) = .failure 7 :=
  ⟨⟨accepting_held _, rfl⟩, ⟨⟨rfl, rfl, rfl⟩, rfl, rfl⟩, rfl⟩

theorem witness_FailedShowChangesNothing :
    Accepting (given (block [red]) wordShow (.failure 7)) ∧
    (given (block [red]) wordShow (.failure 7)).initialized = false ∧
    nextAnswer (given (block [red]) wordShow (.failure 7)) = .failure 7 := ⟨⟨rfl, rfl, rfl⟩, rfl, rfl⟩

/-- The lines held, and the lines acquired now. -/
theorem witness_ShowBeginsTransmission :
    (Accepting (held [red]) ∧ (held [red]).initialized = true) ∧
    (Accepting (given (block [red]) wordShow .success) ∧
      nextAnswer (given (block [red]) wordShow .success) = .success) :=
  ⟨⟨accepting_held _, rfl⟩, ⟨⟨rfl, rfl, rfl⟩, rfl⟩⟩

theorem witness_ShowRunsToCompletion :
    (Accepting (held []) ∧ (held []).initialized = true) ∧
    (Accepting (given (block [red]) wordShow .success) ∧
      nextAnswer (given (block [red]) wordShow .success) = .success) :=
  ⟨⟨accepting_held _, rfl⟩, ⟨⟨rfl, rfl, rfl⟩, rfl⟩⟩

/-- With the lines held, and without. -/
theorem witness_ShutdownBlanksTheBuffer :
    (Accepting (held [red]) ∧ (held [red]).initialized = true ∧ memRead (held [red]).buf 0 = some red) ∧
    (Accepting (block [red]) ∧ (block [red]).initialized = false) :=
  ⟨⟨accepting_held _, rfl, rfl⟩, ⟨accepting_block _, rfl⟩⟩

theorem witness_ShutdownRunsToCompletion : Accepting (held [red]) ∧ (held [red]).initialized = true :=
  ⟨accepting_held _, rfl⟩

theorem witness_UseAfterShutdownIsRecorded :
    ({ block [red] with released := true } : State).fault = none ∧
    ({ block [red] with released := true } : State).pos = .idle ∧
    ({ block [red] with released := true } : State).released = true := ⟨rfl, rfl, rfl⟩

/-- One state and one operand for each of the four clauses. -/
theorem witness_FirstFailingCheckIsReported :
    ((given { block [red] with released := true } 0 .success).port = [0] ∧ legalWord 0 = false) ∧
    ((given { block [red] with released := true } wordClear .success).released = true ∧
      decode wordClear = .cmd .clear) ∧
    (Accepting (block [red]) ∧ ¬ InContract nan) ∧
    (InContract half ∧ (block [red]).buf.length ≤ (1 : Index).toNat) :=
  ⟨⟨rfl, by decide⟩, ⟨rfl, by decide⟩, ⟨accepting_block _, not_inContract_nan⟩, ⟨inContract_half, by decide⟩⟩

theorem witness_MapperBuildsLedFrame : Pixel.zero.brightness.toNat ≤ 31 ∧ red.brightness.toNat ≤ 31 := by decide

theorem witness_SequencerPerformsTransmit :
    (sending [red] .csLow Levels.unknown).fault = none ∧ (sending [red] .csLow Levels.unknown).initialized = true ∧
    (sending [red] .csLow Levels.unknown).pos = .csLow ∧
    (sending [red] .csLow Levels.unknown).cfg.endFramePulses = 36 := ⟨rfl, rfl, rfl, rfl⟩

/-- The start frame's data write, and a pixel's. -/
theorem witness_DataWrittenOnlyAfterClockLow :
    transmitEvents 36 [] = [(.cs, false)] ++ (.dat, false) :: (pulses 32 ++ endFrame 36 ++ [(.cs, true)]) ∧
    transmitEvents 36 [] =
      ([(.cs, false), (.dat, false)] ++ pulses 32) ++ (.dat, false) :: (pulses 36 ++ [(.cs, true)]) := ⟨rfl, rfl⟩

/-- A data write at the start and in a pixel, and a clock write. -/
theorem witness_DataSteadyWhileClockHigh :
    (∃ t, BlockInv (sending [red] .startDat ⟨none, none, some false⟩) ∧
      step (sending [red] .startDat ⟨none, none, some false⟩) = .next t ∧ t.trace = [] ++ [(.dat, false)]) ∧
    (∃ t, BlockInv (sending [red] (.pixBit 0 3 0 .dat) low) ∧
      step (sending [red] (.pixBit 0 3 0 .dat) low) = .next t ∧ t.trace = [] ++ [(.dat, true)]) ∧
    (∃ t, BlockInv (sending [red] (.startClk 0 .rise) ⟨some false, none, some false⟩) ∧
      step (sending [red] (.startClk 0 .rise) ⟨some false, none, some false⟩) = .next t ∧
      t.trace = [] ++ [(.clk, true)]) :=
  ⟨⟨_, inv_startDat, rfl, rfl⟩, ⟨_, inv_pixBit, rfl, rfl⟩, ⟨_, inv_rise, rfl, rfl⟩⟩

/-- The first write, the last one, and the last one of SHUTDOWN. -/
theorem witness_ChipSelectFramesTheTransaction :
    (∃ t, BlockInv (sending [red] .csLow Levels.unknown) ∧ step (sending [red] .csLow Levels.unknown) = .next t ∧
      t.level.cs ≠ none) ∧
    (∃ t, BlockInv (sending [red] .csHigh low) ∧ step (sending [red] .csHigh low) = .next t ∧
      t.level.cs ≠ some false) ∧
    (∃ t, BlockInv (stopping [red] .csHigh low) ∧ step (stopping [red] .csHigh low) = .next t ∧
      t.level.cs ≠ some false) :=
  ⟨⟨_, inv_csLow, rfl, by decide⟩, ⟨_, inv_csHigh, rfl, by decide⟩, ⟨_, inv_stopping, rfl, by decide⟩⟩

theorem witness_WireBitsOfTransaction :
    Memory.wf [red, dim] = true ∧ Levels.unknown.clk ≠ some true ∧ Levels.resting.clk ≠ some true := by decide

theorem witness_FirstShowSendsDarkFrames :
    ({ State.construct cfg 2 with answers := [.success] } : State) =
      { State.construct cfg 2 with answers := [.success] } := rfl

theorem witness_TransmissionTimeFloor : (held [red]).cfg.endFramePulses = 36 := rfl

end Sys2Proof.Tests
end

section
/-! PROOFS. Reset and the invariant (spec/10_state.md, spec/70_reset_and_hazards.md section 1). -/

namespace Sys2Proof.Machine

@[simp] theorem State.construct_buf (cfg : Config) (n : Nat) :
    (State.construct cfg n).buf = List.replicate n Pixel.zero := rfl

/-- In a store of equal pixels every read below the pixel count gives that pixel. -/
theorem memRead_replicate {n i : Nat} (h : i < n) (p : Pixel) : memRead (List.replicate n p) i = some p :=
  List.getElem?_replicate_of_lt h

/-- Settles O1: the buffer is `n` copies of the zero pixel; the other two fields are set by definition. -/
theorem constructionZeroesTheBuffer : Obligations.ConstructionZeroesTheBuffer := by
  intro cfg n
  have hlen : (State.construct cfg n).buf.length = n := by simp
  have hread : ∀ i, i < n → memRead (State.construct cfg n).buf i = some ⟨0, 0, 0, 0⟩ :=
    fun _ hi => memRead_replicate hi Pixel.zero
  exact ⟨hlen, hread, rfl, rfl⟩

end Sys2Proof.Machine
end

section
/-! PROOFS. The LED frame (spec/30_encoding.md R82): its four bytes, and the bits its pixel sends. -/

namespace Sys2Proof.Machine

/-- A concatenation read as one number, the left part most significant. -/
theorem toNat_append_eq_add {n m : Nat} (x : BitVec n) (y : BitVec m) :
    (x ++ y).toNat = x.toNat * 2 ^ m + y.toNat := by
  rw [BitVec.toNat_append, ← Nat.shiftLeft_add_eq_or_of_lt y.isLt, Nat.shiftLeft_eq]

/-- A brightness of at most 31 leaves the three marker bits of the control byte alone, so the OR adds. -/
theorem controlByte_toNat {b : Byte} (h : b.toNat ≤ 31) : (0xE0 ||| b).toNat = 7 * 2 ^ 5 + b.toNat := by
  have hlt : b.toNat < 2 ^ 5 := by omega
  have hor : 2 ^ 5 * 7 + b.toNat = 2 ^ 5 * 7 ||| b.toNat := Nat.two_pow_add_eq_or_of_lt hlt 7
  rw [BitVec.toNat_or, Nat.mul_comm 7]
  exact hor.symm

/-- Five fields side by side, read as one number. -/
theorem toNat_append_fields {n m k l j : Nat} (a : BitVec n) (b : BitVec m) (c : BitVec k) (d : BitVec l)
    (e : BitVec j) : (a ++ b ++ c ++ d ++ e).toNat =
      (((a.toNat * 2 ^ m + b.toNat) * 2 ^ k + c.toNat) * 2 ^ l + d.toNat) * 2 ^ j + e.toNat := by
  simp only [toNat_append_eq_add]

theorem ledFrame_toNat {p : Pixel} (h : p.brightness.toNat ≤ 31) :
    (ledFrame p).toNat = (0xE0 ||| p.brightness).toNat * 2 ^ 24 + p.blue.toNat * 2 ^ 16 + p.green.toNat * 2 ^ 8 +
      p.red.toNat := by
  have hfields : (ledFrame p).toNat = _ :=
    toNat_append_fields (0b111 : BitVec 3) (p.brightness.extractLsb' 0 5) p.blue p.green p.red
  have hlow : (p.brightness.extractLsb' 0 5).toNat = p.brightness.toNat := by
    rw [BitVec.extractLsb'_toNat, Nat.shiftRight_zero]
    exact Nat.mod_eq_of_lt (by omega)
  have hmark : (0b111 : BitVec 3).toNat = 7 := rfl
  rw [hfields, hlow, hmark, controlByte_toNat h]
  omega

theorem ledFrame_marker {p : Pixel} (h : p.brightness.toNat ≤ 31) : (ledFrame p).extractLsb' 29 3 = 0b111 := by
  have hmark : (0b111 : BitVec 3).toNat = 7 := rfl
  apply BitVec.eq_of_toNat_eq
  rw [BitVec.extractLsb'_toNat, ledFrame_toNat h, controlByte_toNat h, Nat.shiftRight_eq_div_pow, hmark]
  omega

theorem ledFrame_brightness {p : Pixel} (h : p.brightness.toNat ≤ 31) :
    ((ledFrame p).extractLsb' 24 5).toNat = p.brightness.toNat := by
  rw [BitVec.extractLsb'_toNat, ledFrame_toNat h, controlByte_toNat h, Nat.shiftRight_eq_div_pow]
  omega

/-- The bytes of a 32-bit frame, most significant first. -/
def bytesOfFrame (f : BitVec 32) : List Byte :=
  [f.extractLsb' 24 8, f.extractLsb' 16 8, f.extractLsb' 8 8, f.extractLsb' 0 8]

/-- The bytes of a frame are the base-256 digits of its number. -/
theorem bytesOfFrame_eq {f : BitVec 32} {a b c d : Byte}
    (h : f.toNat = a.toNat * 2 ^ 24 + b.toNat * 2 ^ 16 + c.toNat * 2 ^ 8 + d.toNat) : bytesOfFrame f = [a, b, c, d] := by
  simp only [bytesOfFrame, List.cons.injEq, and_true, ← BitVec.toNat_inj, BitVec.extractLsb'_toNat, h,
    Nat.shiftRight_eq_div_pow]
  omega

theorem frame_eq_bytesOfFrame {p : Pixel} (h : p.brightness.toNat ≤ 31) : frame p = bytesOfFrame (ledFrame p) :=
  (bytesOfFrame_eq (ledFrame_toNat h)).symm

theorem frame_getElem? (p : Pixel) (j : Fin 4) : (frame p)[j.val]? = some (byteOf p j) := by
  fin_cases j <;> rfl

/-- The bits of a byte, most significant first (spec/20_memory.md R53). -/
def byteBits (v : Byte) : List Bool := [7, 6, 5, 4, 3, 2, 1, 0].map (bit v)

/-- The levels that the data writes among some pin writes drive. -/
def dataLevels (es : List PinEvent) : List Bool := (es.filter fun e => e.1 == .dat).map fun e => e.2

theorem dataLevels_sendByte (v : Byte) : dataLevels (sendByte v) = byteBits v := rfl

theorem dataLevels_flatten (ls : List (List PinEvent)) : dataLevels ls.flatten = (ls.map dataLevels).flatten := by
  rw [dataLevels, List.filter_flatten, List.map_flatten, List.map_map]
  rfl

theorem dataLevels_sendPixel (p : Pixel) : dataLevels (sendPixel p) = ((frame p).map byteBits).flatten := by
  simp [sendPixel, dataLevels_flatten, Function.comp_def, dataLevels_sendByte]

theorem frameBits_eq_byteBits (f : BitVec 32) : frameBits f = ((bytesOfFrame f).map byteBits).flatten := by
  simp [frameBits, bytesOfFrame, byteBits, bit, List.range_succ]

/-- Settles O45: up to a brightness of 31 the frame is the mapper's four bytes side by side, and both the payload's data
levels and the frame's bits are the bits of those bytes in order. -/
theorem mapperBuildsLedFrame : Obligations.MapperBuildsLedFrame := by
  intro p h
  have hbits : dataLevels (sendPixel p) = frameBits (ledFrame p) := by
    rw [dataLevels_sendPixel, frame_eq_bytesOfFrame h, frameBits_eq_byteBits]
  exact ⟨ledFrame_toNat h, ledFrame_marker h, ledFrame_brightness h, frame_eq_bytesOfFrame h, frame_getElem? p, hbits⟩

end Sys2Proof.Machine
end

section
/-! PROOFS. The buffer commands (spec/40_strip_ops.md): SET_PIXEL, SET_BRIGHTNESS and CLEAR, each by what it answers when
its checks pass and by the buffers it can leave behind, faults included. -/

namespace Sys2Proof.Machine

open Sys2Proof.Stated

/-! ### Checks that pass -/

/-- A block that may start a command and is not retired runs the command's own body. -/
theorem exec_accepting (i : Instr) {s : State} (h : Accepting s) : exec i s = bodyOf i s := by
  obtain ⟨hfault, hpos, hreleased⟩ := h
  rw [exec_eq_command, command_open _ _ hfault hpos hreleased]

theorem withBrightness_of_quantize {b : Binary32} {q : Byte} {s : State} (body : Byte → State → Result)
    (hq : quantize s.cfg.quantMode b = some q) : withBrightness b body s = body q s := by
  simp [withBrightness, hq]

theorem withIndex_of_lt {index : Index} {s : State} (body : Nat → State → Result)
    (hi : index.toNat < s.buf.length) : withIndex index body s = body index.toNat s := if_pos hi

theorem exec_setPixel_ok {s : State} {index : Index} {bright : Binary32} {q : Byte} (r g b : Byte) (hs : Accepting s)
    (hq : quantize s.cfg.quantMode bright = some q) (hi : index.toNat < s.buf.length) :
    exec (.setPixel index r g b bright) s =
      .next (reply .ok (s.setBuf (memWrite s.buf index.toNat ⟨r, g, b, q⟩))) := by
  rw [exec_accepting _ hs, bodyOf, withBrightness_of_quantize _ hq, withIndex_of_lt _ hi]

theorem exec_setBrightness_ok {s : State} {bright : Binary32} {q : Byte} (hs : Accepting s)
    (hq : quantize s.cfg.quantMode bright = some q) :
    exec (.setBrightness bright) s = .next (reply .ok (s.setBuf (memSetBrightness s.buf q))) := by
  rw [exec_accepting _ hs, bodyOf, withBrightness_of_quantize _ hq]

theorem exec_clear_ok {s : State} (hs : Accepting s) :
    exec .clear s = .next (reply .ok (s.setBuf (memBlank s.buf))) := exec_accepting _ hs

/-! ### The buffers a command can leave behind -/

/-- A command that answers a next state faulted, or did what it is for (spec/60_exceptions.md R209). -/
theorem exec_next_fault_or_did {i : Instr} {s t : State} (h : exec i s = .next t) :
    (∃ v, t = s.withFault v) ∨ Did i s t := by
  obtain ⟨_, _, ⟨_, ht⟩ | ⟨_, hdid⟩⟩ := exec_next h
  · exact .inl ⟨_, ht⟩
  · exact .inr hdid

theorem exec_setPixel_buf {s t : State} {index : Index} {r g b : Byte} {bright : Binary32}
    (h : exec (.setPixel index r g b bright) s = .next t) :
    t.buf = s.buf ∨ ∃ q, t.buf = memWrite s.buf index.toNat ⟨r, g, b, q⟩ := by
  obtain ⟨v, rfl⟩ | ⟨q, _, _, rfl⟩ | ⟨q, _, _, rfl⟩ | ⟨_, rfl⟩ := exec_next_fault_or_did h
  · exact .inl rfl
  · exact .inr ⟨q, rfl⟩
  · exact .inl rfl
  · exact .inl rfl

theorem exec_setBrightness_buf {s t : State} {bright : Binary32} (h : exec (.setBrightness bright) s = .next t) :
    t.buf = s.buf ∨ ∃ q, t.buf = memSetBrightness s.buf q := by
  obtain ⟨v, rfl⟩ | ⟨q, _, rfl⟩ | ⟨_, rfl⟩ := exec_next_fault_or_did h
  · exact .inl rfl
  · exact .inr ⟨q, rfl⟩
  · exact .inl rfl

theorem exec_clear_buf {s t : State} (h : exec .clear s = .next t) : t.buf = s.buf ∨ t.buf = memBlank s.buf := by
  obtain ⟨v, rfl⟩ | rfl := exec_next_fault_or_did h
  · exact .inl rfl
  · exact .inr rfl

/-! ### Reading a record back -/

theorem memRead_memSetBrightness_some {m : Memory} {k : Nat} {p : Pixel} (h : memRead m k = some p) (q : Byte) :
    memRead (memSetBrightness m q) k = some ⟨p.red, p.green, p.blue, q⟩ := by
  rw [memRead_memSetBrightness, h, Option.map_some]

theorem memRead_memBlank_some {m : Memory} {k : Nat} {p : Pixel} (h : memRead m k = some p) :
    memRead (memBlank m) k = some ⟨0, 0, 0, p.brightness⟩ := by
  rw [memRead_memBlank, h, Option.map_some]

/-! ### The obligations -/

/-- Settles O28: the answer is one write at the index, and a fault writes no record. -/
theorem setPixelWritesItsRecord : Obligations.SetPixelWritesItsRecord := by
  constructor
  · intro s index r g b bright q hs hq hi
    exact ⟨memWrite s.buf index.toNat ⟨r, g, b, q⟩, exec_setPixel_ok r g b hs hq hi, memWrite_length _ _ _,
      memRead_memWrite_same hi _, fun _ hk => memRead_memWrite_other _ hk _⟩
  · intro s t index r g b bright h k hk
    obtain hbuf | ⟨q, hbuf⟩ := exec_setPixel_buf h
    · rw [hbuf]
    · rw [hbuf, memRead_memWrite_other _ hk]

/-- Settles O33: every record is mapped to itself with another brightness, and a fault leaves it whole. -/
theorem setBrightnessKeepsColours : Obligations.SetBrightnessKeepsColours := by
  constructor
  · intro s bright q hs hq
    exact ⟨memSetBrightness s.buf q, exec_setBrightness_ok hs hq, memSetBrightness_length _ _,
      fun _ _ hp => memRead_memSetBrightness_some hp q⟩
  · intro s t bright h k p hp
    obtain hbuf | ⟨q, hbuf⟩ := exec_setBrightness_buf h
    · exact ⟨p.brightness, by rw [hbuf, hp]⟩
    · exact ⟨q, by rw [hbuf, memRead_memSetBrightness_some hp]⟩

/-- Settles O34: every record is mapped to a black one of its brightness, and a fault leaves it whole. -/
theorem clearKeepsBrightness : Obligations.ClearKeepsBrightness := by
  constructor
  · intro s hs
    exact ⟨memBlank s.buf, exec_clear_ok hs, memBlank_length _, fun _ _ hp => memRead_memBlank_some hp⟩
  · intro s t h k p hp
    obtain hbuf | hbuf := exec_clear_buf h
    · exact ⟨p, by rw [hbuf, hp], rfl⟩
    · exact ⟨⟨0, 0, 0, p.brightness⟩, by rw [hbuf, memRead_memBlank_some hp], rfl⟩

end Sys2Proof.Machine
end

section
/-! PROOFS. Device errors (spec/41_device_ops.md section 5): every step adds at most an Ok to what
the host was given, a failed acquisition by INIT or SHOW aside. -/

namespace Sys2Proof.Machine

open Sys2Proof.Stated

/-- From `s` to `t` the host was given no status, or Ok. -/
def GaveAtMostOk (s t : State) : Prop := t.replies = s.replies ∨ t.replies = s.replies ++ [.ok]

/-- `t` is `s` after an acquisition that the platform failed, reported with its error (spec/41_device_ops.md R144). -/
def FailedAcquisition (s t : State) : Prop :=
  ∃ e, s.initialized = false ∧ nextAnswer s = .failure e ∧ t = reply (.deviceError e) s.ask

/-! ### The lazy setup -/

/-- The setup adds nothing to what its continuation gives the host, unless the acquisition fails. -/
theorem withLines_gave (k : State → State) (hk : ∀ u, GaveAtMostOk u (k u)) (s : State) :
    GaveAtMostOk s (withLines k s) ∨ FailedAcquisition s (withLines k s) := by
  obtain ⟨_, heq⟩ | ⟨_, _, heq⟩ | ⟨hinit, e, hans, heq⟩ := withLines_cases k s
  · exact .inl (heq ▸ hk s)
  · exact .inl (heq ▸ hk s.ask.hold)
  · exact .inr ⟨e, hinit, hans, heq⟩

theorem withLines_failure {s : State} {e : PlatformError} (k : State → State) (hinit : s.initialized = false)
    (hans : nextAnswer s = .failure e) : withLines k s = reply (.deviceError e) s.ask := by
  simp [withLines, acquireLines, hinit, hans]

/-! ### Commands -/

/-- A command gives at most Ok; only INIT and SHOW can fail to acquire the lines. -/
theorem did_gave {i : Instr} {s t : State} (h : Did i s t) :
    GaveAtMostOk s t ∨ ((i = .init ∨ i = .showStrip) ∧ FailedAcquisition s t) := by
  cases i with
  | init =>
    obtain rfl := h
    exact (withLines_gave (reply .ok) (fun _ => .inr rfl) s).imp_right fun hfail => ⟨.inl rfl, hfail⟩
  | setPixel index r g b bright =>
    obtain ⟨_, _, _, rfl⟩ | ⟨_, _, _, rfl⟩ | ⟨_, rfl⟩ := h
    · exact .inl (.inr rfl)
    · exact .inl (.inl rfl)
    · exact .inl (.inl rfl)
  | setAll r g b bright =>
    obtain ⟨_, _, rfl⟩ | ⟨_, rfl⟩ := h
    · exact .inl (.inr rfl)
    · exact .inl (.inl rfl)
  | setBrightness bright =>
    obtain ⟨_, _, rfl⟩ | ⟨_, rfl⟩ := h
    · exact .inl (.inr rfl)
    · exact .inl (.inl rfl)
  | clear =>
    obtain rfl := h
    exact .inl (.inr rfl)
  | showStrip =>
    obtain rfl := h
    exact (withLines_gave (beginTransmit .showing) (fun _ => .inl rfl) s).imp_right fun hfail => ⟨.inr rfl, hfail⟩
  | shutdown =>
    obtain ⟨_, rfl⟩ | ⟨_, rfl⟩ := h
    · exact .inl (.inl rfl)
    · exact .inl (.inr rfl)

theorem exec_gave {i : Instr} {s t : State} (h : exec i s = .next t) :
    GaveAtMostOk s t ∨ ((i = .init ∨ i = .showStrip) ∧ FailedAcquisition s t) := by
  obtain ⟨_, rfl⟩ | hdid := exec_next_fault_or_did h
  · exact .inl (.inl rfl)
  · exact did_gave hdid

/-- INIT and SHOW end with the platform's error when the acquisition fails (spec/41_device_ops.md R133, R136). -/
theorem exec_acquisition_failure {i : Instr} {s : State} {e : PlatformError} (hi : i = .init ∨ i = .showStrip)
    (hs : Accepting s) (hinit : s.initialized = false) (hans : nextAnswer s = .failure e) :
    exec i s = .next (reply (.deviceError e) s.ask) := by
  rw [exec_accepting i hs]
  obtain rfl | rfl := hi
  · exact congrArg Host.Outcome.next (withLines_failure (reply .ok) hinit hans)
  · exact congrArg Host.Outcome.next (withLines_failure (beginTransmit .showing) hinit hans)

/-! ### Steps -/

theorem finishTransmit_gave (s : State) : GaveAtMostOk s (finishTransmit s) := by
  obtain ⟨_, heq⟩ | ⟨_, heq⟩ | ⟨_, heq⟩ := finishTransmit_cases s
  · exact .inr (congrArg State.replies heq)
  · exact .inr (congrArg State.replies heq)
  · exact .inl (congrArg State.replies heq)

theorem arrive_gave (p : SeqPos) (s : State) : GaveAtMostOk s (arrive p s) := by
  by_cases hp : p = .idle
  · subst hp
    rw [arrive_idle]
    exact finishTransmit_gave (s.atPos .idle)
  · rw [arrive_moving hp]
    exact .inl rfl

theorem sequencerStep_gave {s t : State} (hp : s.pos ≠ .idle) (h : sequencerStep s = .next t) : GaveAtMostOk s t := by
  obtain ⟨_, e, _, rfl⟩ := sequencerStep_next hp h
  exact arrive_gave _ (pinWrite e s)

/-- A step gives at most Ok, or takes INIT's or SHOW's word and fails to acquire the lines. -/
theorem step_gave {s t : State} (h : step s = .next t) :
    GaveAtMostOk s t ∨ (AcquiringWord s ∧ ∃ rest, FailedAcquisition (s.taken rest) t) := by
  obtain ⟨_, ⟨hp, hseq⟩ | ⟨_, _, rfl⟩ | ⟨_, _, _, _, _, _, rfl⟩ | ⟨_, w, rest, i, hport, hdec, hexec⟩⟩ := step_next h
  · exact .inl (sequencerStep_gave hp hseq)
  · exact .inl (.inl rfl)
  · exact .inl (.inl rfl)
  · obtain hgave | ⟨hi, hfail⟩ := exec_gave hexec
    · exact .inl hgave
    · have hword : decode w = .cmd .init ∨ decode w = .cmd .showStrip := by
        rw [hdec]
        exact hi.imp (congrArg _) (congrArg _)
      exact .inr ⟨⟨w, rest, hport, hword⟩, rest, hfail⟩

/-! ### The obligation -/

/-- Settles O20: `step_gave` gives the only source of a device error, `exec_acquisition_failure` that each failed
acquisition is one. -/
theorem deviceErrorOnlyFromAcquisition : Obligations.DeviceErrorOnlyFromAcquisition := by
  constructor
  · intro s t h
    obtain (hnone | hok) | ⟨hword, rest, e, hinit, hans, rfl⟩ := step_gave h
    · exact .inl hnone
    · exact .inr (.inl hok)
    · exact .inr (.inr ⟨e, rfl, hinit, hans, hword, hinit, rfl⟩)
  · intro i s e hi hs hinit hans
    exact ⟨_, exec_acquisition_failure hi hs hinit hans, rfl⟩

end Sys2Proof.Machine
end

section
/-! PROOFS. Bit extraction (spec/42_serializer.md R165): the lowest bit of a byte, and shifting bit `k` down to it. -/

namespace Sys2Proof.Machine

/-- Masking a byte with 1 leaves its lowest bit and nothing else. -/
theorem bit_zero (v : Byte) : bit v 0 = ((v &&& 1) == 1) := by
  have hmask : v &&& 1 = (BitVec.ofBool (bit v 0)).setWidth 8 := BitVec.and_one_eq_setWidth_ofBool_getLsbD
  rw [hmask]
  cases bit v 0 <;> rfl

/-- A shift right by `k` moves bit `k + j` down to bit `j`. -/
theorem bit_ushiftRight (v : Byte) (k j : Nat) : bit (v >>> k) j = bit v (k + j) :=
  BitVec.getLsbD_ushiftRight v k j

/-- Settles O44: a shift right by `k` brings bit `k` to the lowest place, where the mask reads it; the table is
evaluated. -/
theorem bitExtraction : Obligations.BitExtraction := by
  constructor
  · intro v k
    rw [← bit_zero, bit_ushiftRight, Nat.add_zero]
  · decide

end Sys2Proof.Machine
end

section
/-! PROOFS. IndexOutOfRange (spec/60_exceptions.md R203): a brightness in contract is quantized, so that SET_PIXEL
reaches the index check; and what fault each command can leave behind. -/

namespace Sys2Proof.Machine

open Sys2Proof.Stated

/-! ### A brightness in contract is quantized -/

/-- The value of a reading, a rational; none for a NaN or an infinity (spec/30_encoding.md R77). -/
def Reading.value : Reading → Option ℚ
  | .nan => none
  | .infinite _ => none
  | .finite neg u => some ((if neg then -1 else 1) * (u * 2 ^ (-149 : ℤ)))

/-- The model's reading of a binary32 in units has the value that the spec writes. -/
theorem binVal_eq_value (b : Binary32) : binVal b = (readBinary32 b).value := by
  simp only [binVal, readBinary32, ← binExp.eq_1, ← binFrac.eq_1, ← binSign.eq_1]
  by_cases hspecial : binExp b = 255
  · rw [if_pos hspecial, if_pos hspecial]
    split <;> rfl
  rw [if_neg hspecial, if_neg hspecial]
  by_cases hsubnormal : binExp b = 0
  · rw [if_pos hsubnormal, if_pos hsubnormal, Reading.value, mul_assoc]
  · have hscale : (2 : ℚ) ^ ((binExp b : ℤ) - 150) = 2 ^ (binExp b - 1) * 2 ^ (-149 : ℤ) := by
      rw [← zpow_natCast, ← zpow_add₀ two_ne_zero]
      congr 1
      omega
    rw [if_neg hsubnormal, if_neg hsubnormal, Reading.value, hscale]
    congr 1
    push_cast
    ring

/-- The units of a number of at most 1 are at most the units of 1. -/
theorem le_unitsOfOne {u : Nat} (h : (u : ℚ) * 2 ^ (-149 : ℤ) ≤ 1) : u ≤ unitsOfOne := by
  rw [zpow_neg, ← div_eq_mul_inv, div_le_one (by positivity)] at h
  exact_mod_cast h

/-- A negative number of units in range is none: negative zero (spec/92_eei_decisions.md D32). -/
theorem units_eq_zero_of_neg {u : Nat} (h : (0 : ℚ) ≤ -1 * (u * 2 ^ (-149 : ℤ))) : u = 0 := by
  by_contra hu
  have hpos : (0 : ℚ) < u * 2 ^ (-149 : ℤ) := by positivity
  linarith

theorem contractUnits_of_inContract {b : Binary32} (h : InContract b) : ∃ u, contractUnits b = some u := by
  obtain ⟨v, hv, hnonneg, hle⟩ := h
  rw [binVal_eq_value] at hv
  unfold contractUnits
  cases hread : readBinary32 b with
  | nan => simp [hread, Reading.value] at hv
  | infinite neg => simp [hread, Reading.value] at hv
  | finite neg u =>
    rw [hread] at hv
    obtain rfl := Option.some.inj hv
    cases neg with
    | true => exact ⟨0, if_pos (units_eq_zero_of_neg hnonneg)⟩
    | false => exact ⟨u, if_pos (le_unitsOfOne (by simpa using hle))⟩

theorem quantize_of_inContract (mode : QuantMode) {b : Binary32} (h : InContract b) :
    ∃ q, quantize mode b = some q := by
  obtain ⟨u, hu⟩ := contractUnits_of_inContract h
  exact ⟨_, by rw [quantize, hu, Option.map_some]⟩

/-! ### The fault of SET_PIXEL -/

theorem withIndex_of_le {index : Index} {s : State} (body : Nat → State → Result)
    (hi : s.buf.length ≤ index.toNat) : withIndex index body s = raise (.indexOutOfRange index) s :=
  if_neg (by omega)

theorem exec_setPixel_indexOutOfRange {s : State} {index : Index} {bright : Binary32} (r g b : Byte)
    (hs : Accepting s) (hb : InContract bright) (hi : s.buf.length ≤ index.toNat) :
    exec (.setPixel index r g b bright) s = .next (s.withFault (.indexOutOfRange index)) := by
  obtain ⟨q, hq⟩ := quantize_of_inContract s.cfg.quantMode hb
  rw [exec_accepting _ hs, bodyOf, withBrightness_of_quantize _ hq, withIndex_of_le _ hi, raise]

/-! ### The fault a command can leave behind -/

/-- The setup of the lines faults only where its continuation does. -/
theorem withLines_fault (k : State → State) (hk : ∀ u, (k u).fault = u.fault) (s : State) :
    (withLines k s).fault = s.fault := by
  obtain ⟨_, heq⟩ | ⟨_, _, heq⟩ | ⟨_, _, _, heq⟩ := withLines_cases k s
  · rw [heq, hk]
  · rw [heq, hk, State.hold_fault, State.ask_fault]
  · rw [heq, reply_fault, State.ask_fault]

/-- A command past its gate leaves the fault as it was, or is refused its brightness, or is a SET_PIXEL refused its
index. -/
theorem did_fault {i : Instr} {s t : State} (h : Did i s t) :
    t.fault = s.fault ∨ (∃ bright, t.fault = some (.brightnessOutOfRange bright)) ∨
      ∃ index r g b bright, i = .setPixel index r g b bright ∧ s.buf.length ≤ index.toNat ∧
        t.fault = some (.indexOutOfRange index) := by
  cases i with
  | init =>
    obtain rfl := h
    exact .inl (withLines_fault _ (reply_fault .ok) s)
  | setPixel index r g b bright =>
    obtain ⟨_, _, _, rfl⟩ | ⟨_, _, hi, rfl⟩ | ⟨_, rfl⟩ := h
    · exact .inl rfl
    · exact .inr (.inr ⟨index, r, g, b, bright, rfl, hi, rfl⟩)
    · exact .inr (.inl ⟨bright, rfl⟩)
  | setAll r g b bright =>
    obtain ⟨_, _, rfl⟩ | ⟨_, rfl⟩ := h
    · exact .inl rfl
    · exact .inr (.inl ⟨bright, rfl⟩)
  | setBrightness bright =>
    obtain ⟨_, _, rfl⟩ | ⟨_, rfl⟩ := h
    · exact .inl rfl
    · exact .inr (.inl ⟨bright, rfl⟩)
  | clear =>
    obtain rfl := h
    exact .inl rfl
  | showStrip =>
    obtain rfl := h
    exact .inl (withLines_fault _ (beginTransmit_fault .showing) s)
  | shutdown =>
    obtain ⟨_, rfl⟩ | ⟨_, rfl⟩ := h
    · exact .inl rfl
    · exact .inl rfl

theorem exec_indexOutOfRange {i : Instr} {s t : State} {index : Index} (h : exec i s = .next t)
    (hfault : t.fault = some (.indexOutOfRange index)) :
    s.buf.length ≤ index.toNat ∧ ∃ r g b bright, i = .setPixel index r g b bright := by
  obtain ⟨hnone, _, ⟨_, rfl⟩ | ⟨_, hdid⟩⟩ := exec_next h
  · simp at hfault
  · obtain hsame | ⟨_, hbright⟩ | ⟨index', r, g, b, bright, rfl, hi, hindex⟩ := did_fault hdid
    · simp [hsame, hnone] at hfault
    · simp [hbright] at hfault
    · obtain rfl : index' = index := by simpa [hindex] using hfault
      exact ⟨hi, r, g, b, bright, rfl⟩

/-- Settles O29: a brightness in contract passes its check, so SET_PIXEL answers the index check; and of the faults that
a command can leave behind only SET_PIXEL's is this one. -/
theorem indexOutOfRangeIsRecorded : Obligations.IndexOutOfRangeIsRecorded :=
  ⟨fun _ _ r g b _ hs hb hi => ⟨exec_setPixel_indexOutOfRange r g b hs hb hi, rfl⟩,
    fun _ _ _ _ => exec_indexOutOfRange⟩

end Sys2Proof.Machine
end

section
/-! PROOFS. The encoding (spec/30_encoding.md): a word decodes to a command exactly when it is the command's word; the
rows of the opcode table, the illegal words and the byte form follow from that. -/

namespace Sys2Proof

open Sys2Proof.Machine Sys2Proof.Stated

/-! ### Decoder and encoder -/

theorem decode_encode (i : Instr) : decode (encode i) = .cmd i := by
  cases i <;>
    simp [decode, encode, ifUnused, opcInit, opcSetPixel, opcSetAll, opcSetBrightness, opcClear, opcShow, opcShutdown]

/-- Settles O6: every field of a packed word reads back as it was packed. -/
theorem decodeInvertsEncode : Obligations.DecodeInvertsEncode := decode_encode

theorem ifUnused_eq_cmd {z : Bool} {i j : Instr} : ifUnused z i = .cmd j ↔ z = true ∧ i = j := by
  cases z <;> simp [ifUnused]

/-- A word whose reserved fields are zero is its other fields packed (spec/30_encoding.md R70). -/
theorem pack_fields {w : Word} (h0 : fieldRes0 w = 0) (h1 : fieldRes1 w = 0) :
    pack (fieldOpc w) (fieldIdx w) (fieldBri w) (fieldRed w) (fieldGrn w) (fieldBlu w) = w := by
  rw [word_ext_iff]
  simp [h0, h1]

/-- A word with nothing but its opcode, as the decoder checks it (spec/30_encoding.md R73). -/
theorem pack_opcode_only {w : Word} {opc : Byte} (hopc : fieldOpc w = opc) (h0 : fieldRes0 w = 0)
    (h1 : fieldRes1 w = 0)
    (hz : (fieldIdx w == 0 && fieldBri w == 0 && (fieldRed w == 0 && fieldGrn w == 0 && fieldBlu w == 0)) = true) :
    pack opc 0 0 0 0 0 = w := by
  simp only [Bool.and_eq_true, beq_iff_eq] at hz
  obtain ⟨⟨hidx, hbri⟩, ⟨hr, hg⟩, hb⟩ := hz
  have hw := pack_fields h0 h1
  rwa [hopc, hidx, hbri, hr, hg, hb] at hw

theorem encode_of_decode {w : Word} {i : Instr} (h : decode w = .cmd i) : encode i = w := by
  simp only [decode] at h
  by_cases hres : fieldRes0 w ≠ 0 ∨ fieldRes1 w ≠ 0
  · rw [if_pos hres] at h
    cases h
  rw [if_neg hres] at h
  obtain ⟨h0, h1⟩ := not_or.mp hres
  rw [not_not] at h0 h1
  have hw := pack_fields h0 h1
  split_ifs at h with hinit hpixel hall hbright hclear hshow hdown
  · obtain ⟨hz, rfl⟩ := ifUnused_eq_cmd.mp h
    exact pack_opcode_only hinit h0 h1 hz
  · obtain rfl := Decoded.cmd.inj h
    rwa [hpixel] at hw
  · obtain ⟨hidx, rfl⟩ := ifUnused_eq_cmd.mp h
    rwa [hall, eq_of_beq hidx] at hw
  · obtain ⟨hz, rfl⟩ := ifUnused_eq_cmd.mp h
    simp only [Bool.and_eq_true, beq_iff_eq] at hz
    obtain ⟨hidx, ⟨hr, hg⟩, hb⟩ := hz
    rwa [hbright, hidx, hr, hg, hb] at hw
  · obtain ⟨hz, rfl⟩ := ifUnused_eq_cmd.mp h
    exact pack_opcode_only hclear h0 h1 hz
  · obtain ⟨hz, rfl⟩ := ifUnused_eq_cmd.mp h
    exact pack_opcode_only hshow h0 h1 hz
  · obtain ⟨hz, rfl⟩ := ifUnused_eq_cmd.mp h
    exact pack_opcode_only hdown h0 h1 hz

theorem decode_eq_cmd_iff {w : Word} {i : Instr} : decode w = .cmd i ↔ encode i = w :=
  ⟨encode_of_decode, fun h => h ▸ decode_encode i⟩

/-- Settles O7: by the decoder's cases, each of which fixes every field of the word. -/
theorem encodeInvertsDecode : Obligations.EncodeInvertsDecode := fun _ _ => encode_of_decode

theorem decode_illegal_of {w : Word} (h : ∀ i, encode i ≠ w) : ∃ why, decode w = .illegal why := by
  cases hd : decode w with
  | cmd i => exact absurd (encode_of_decode hd) (h i)
  | illegal why => exact ⟨why, rfl⟩

theorem fieldOpc_encode (i : Instr) : fieldOpc (encode i) = opcodeOf i := by
  cases i <;> simp [encode, opcodeOf]

/-! ### The rows of the opcode table -/

theorem and_byteOnes (x : Byte) : x &&& 255#8 = x := BitVec.and_allOnes

theorem and_reservedOnes (x : BitVec 24) : x &&& 16777215#24 = x := BitVec.and_allOnes

theorem and_wordOnes (x : BitVec 32) : x &&& 4294967295#32 = x := BitVec.and_allOnes

/-- A row whose mask is all ones has one word. -/
theorem OpcodeRow.fits_fullMask {p w : Word} :
    OpcodeRow.fits ⟨0xffffffffffffffffffffffffffffffff, p⟩ w = true ↔ w = p := by
  have hmask : w &&& 0xffffffffffffffffffffffffffffffff = w := BitVec.and_allOnes
  rw [OpcodeRow.fits, hmask, beq_iff_eq]

theorem OpcodeRow.fits_setPixel {w : Word} :
    OpcodeRow.fits ⟨0xffffffff0000000000000000ff000000, 0x02000000000000000000000000000000⟩ w = true ↔
      fieldOpc w = 2 ∧ fieldRes0 w = 0 ∧ fieldRes1 w = 0 := by
  rw [OpcodeRow.fits_iff]
  generalize fieldOpc w = opc, fieldRes0 w = res0, fieldIdx w = idx, fieldBri w = bri, fieldRes1 w = res1,
    fieldRed w = red, fieldGrn w = grn, fieldBlu w = blu
  simp [fieldOpc, fieldRes0, fieldIdx, fieldBri, fieldRes1, fieldRed, fieldGrn, fieldBlu, and_byteOnes,
    and_reservedOnes]

theorem OpcodeRow.fits_setAll {w : Word} :
    OpcodeRow.fits ⟨0xffffffffffffffff00000000ff000000, 0x03000000000000000000000000000000⟩ w = true ↔
      fieldOpc w = 3 ∧ fieldRes0 w = 0 ∧ fieldIdx w = 0 ∧ fieldRes1 w = 0 := by
  rw [OpcodeRow.fits_iff]
  generalize fieldOpc w = opc, fieldRes0 w = res0, fieldIdx w = idx, fieldBri w = bri, fieldRes1 w = res1,
    fieldRed w = red, fieldGrn w = grn, fieldBlu w = blu
  simp [fieldOpc, fieldRes0, fieldIdx, fieldBri, fieldRes1, fieldRed, fieldGrn, fieldBlu, and_byteOnes,
    and_reservedOnes, and_wordOnes]

theorem OpcodeRow.fits_setBrightness {w : Word} :
    OpcodeRow.fits ⟨0xffffffffffffffff00000000ffffffff, 0x04000000000000000000000000000000⟩ w = true ↔
      fieldOpc w = 4 ∧ fieldRes0 w = 0 ∧ fieldIdx w = 0 ∧ fieldRes1 w = 0 ∧ fieldRed w = 0 ∧ fieldGrn w = 0 ∧
        fieldBlu w = 0 := by
  rw [OpcodeRow.fits_iff]
  generalize fieldOpc w = opc, fieldRes0 w = res0, fieldIdx w = idx, fieldBri w = bri, fieldRes1 w = res1,
    fieldRed w = red, fieldGrn w = grn, fieldBlu w = blu
  simp [fieldOpc, fieldRes0, fieldIdx, fieldBri, fieldRes1, fieldRed, fieldGrn, fieldBlu, and_byteOnes,
    and_reservedOnes, and_wordOnes]

/-- The seven rows, each by what it asks of the word. -/
theorem legalWord_iff_rows {w : Word} : legalWord w = true ↔
    w = encode .init ∨ (fieldOpc w = 2 ∧ fieldRes0 w = 0 ∧ fieldRes1 w = 0) ∨
    (fieldOpc w = 3 ∧ fieldRes0 w = 0 ∧ fieldIdx w = 0 ∧ fieldRes1 w = 0) ∨
    (fieldOpc w = 4 ∧ fieldRes0 w = 0 ∧ fieldIdx w = 0 ∧ fieldRes1 w = 0 ∧ fieldRed w = 0 ∧ fieldGrn w = 0 ∧
      fieldBlu w = 0) ∨
    w = encode .clear ∨ w = encode .showStrip ∨ w = encode .shutdown := by
  have hinit : encode .init = 0x01000000000000000000000000000000 := by decide
  have hclear : encode .clear = 0x05000000000000000000000000000000 := by decide
  have hshow : encode .showStrip = 0x06000000000000000000000000000000 := by decide
  have hdown : encode .shutdown = 0x07000000000000000000000000000000 := by decide
  rw [legalWord, opcodeRows, hinit, hclear, hshow, hdown]
  simp only [List.any_cons, List.any_nil, Bool.or_eq_true, Bool.false_eq_true, or_false, OpcodeRow.fits_fullMask,
    OpcodeRow.fits_setPixel, OpcodeRow.fits_setAll, OpcodeRow.fits_setBrightness]

theorem legalWord_iff_encode {w : Word} : legalWord w = true ↔ ∃ i, encode i = w := by
  rw [legalWord_iff_rows]
  constructor
  · rintro (rfl | ⟨hopc, h0, h1⟩ | ⟨hopc, h0, hidx, h1⟩ | ⟨hopc, h0, hidx, h1, hr, hg, hb⟩ | rfl | rfl | rfl)
    · exact ⟨.init, rfl⟩
    · refine ⟨.setPixel (fieldIdx w) (fieldRed w) (fieldGrn w) (fieldBlu w) (fieldBri w), ?_⟩
      have hw := pack_fields h0 h1
      rwa [hopc] at hw
    · refine ⟨.setAll (fieldRed w) (fieldGrn w) (fieldBlu w) (fieldBri w), ?_⟩
      have hw := pack_fields h0 h1
      rwa [hopc, hidx] at hw
    · refine ⟨.setBrightness (fieldBri w), ?_⟩
      have hw := pack_fields h0 h1
      rwa [hopc, hidx, hr, hg, hb] at hw
    · exact ⟨.clear, rfl⟩
    · exact ⟨.showStrip, rfl⟩
    · exact ⟨.shutdown, rfl⟩
  · rintro ⟨i, rfl⟩
    cases i <;> simp [encode, opcSetPixel, opcSetAll, opcSetBrightness]

/-- Every row fixes the whole opcode byte (spec/30_encoding.md R86). -/
theorem fieldOpc_of_fits {row : OpcodeRow} (hrow : row ∈ opcodeRows) {w : Word} (h : row.fits w = true) :
    fieldOpc w = fieldOpc row.pattern := by
  have hmask : ∀ r ∈ opcodeRows, fieldOpc r.mask = 255#8 := by decide
  obtain ⟨hopc, -⟩ := (OpcodeRow.fits_iff row w).mp h
  rwa [hmask row hrow, and_byteOnes] at hopc

theorem opcodeRows_disjoint :
    opcodeRows.Pairwise fun a b => ∀ w : Word, ¬ (a.fits w = true ∧ b.fits w = true) := by
  have hopcodes : opcodeRows.Pairwise fun a b => fieldOpc a.pattern ≠ fieldOpc b.pattern := by decide
  refine hopcodes.imp_of_mem fun {a b} ha hb hne w hfit => hne ?_
  rw [← fieldOpc_of_fits ha hfit.1, fieldOpc_of_fits hb hfit.2]

/-- Settles O8: a legal word is the word of some command, and the rows differ in their opcode byte. -/
theorem legalWordsAreTableRows : Obligations.LegalWordsAreTableRows := by
  refine ⟨rfl, fun w => ?_, fun w hw => ?_, fun w i h => ?_, opcodeRows_disjoint⟩
  · simp only [legalWord_iff_encode, decode_eq_cmd_iff]
  · refine decode_illegal_of fun i hi => ?_
    rw [legalWord_iff_encode.mpr ⟨i, hi⟩] at hw
    cases hw
  · rw [← encode_of_decode h]
    exact (fieldOpc_encode i).symm

/-- Settles O11: each word is evaluated. -/
theorem sampleWordsDecode : Obligations.SampleWordsDecode := by
  have hlegal : decode 0x01000000000000000000000000000000 = .cmd .init ∧
      decode 0x02000000000000003f800000007bea0c = .cmd (.setPixel 0 123 234 12 0x3F800000) ∧
      decode 0x03000000000000003f80000000ff0000 = .cmd (.setAll 255 0 0 0x3F800000) ∧
      decode 0x04000000000000003f00000000000000 = .cmd (.setBrightness 0x3F000000) ∧
      decode 0x05000000000000000000000000000000 = .cmd .clear ∧
      decode 0x06000000000000000000000000000000 = .cmd .showStrip ∧
      decode 0x07000000000000000000000000000000 = .cmd .shutdown := by decide
  have hopcode : decode 0x08000000000000000000000000000000 = .illegal .reservedOpcode := by decide
  have hunused : decode 0x03000000000000013f80000000000000 = .illegal .unusedField := by decide
  have hreserved : decode 0x02000001000000003f80000000000000 = .illegal .reservedField := by decide
  obtain ⟨h1, h2, h3, h4, h5, h6, h7⟩ := hlegal
  exact ⟨h1, h2, h3, h4, h5, h6, h7, by rw [hopcode]; nofun, by rw [hunused]; nofun, by rw [hreserved]; nofun⟩

/-! ### Illegal words -/

/-- The low three bytes of a word are its colour fields. -/
theorem colourFields_eq_zero {w : Word} (hr : fieldRed w = 0) (hg : fieldGrn w = 0) (hb : fieldBlu w = 0) :
    w.extractLsb' 0 24 = 0 := by
  have hfields : w.extractLsb' 0 24 = fieldRed w ++ fieldGrn w ++ fieldBlu w := by
    simp only [fieldRed, fieldGrn, fieldBlu]
    repeat rw [BitVec.extractLsb'_append_extractLsb'_eq_extractLsb' (by omega)]
  rw [hfields, hr, hg, hb]
  rfl

/-- What spec/30_encoding.md R73 and R74 make illegal, read from the word's bits. -/
def IllFormed (w : Word) : Prop :=
  w.extractLsb' 120 8 = 0 ∨ 8 ≤ (w.extractLsb' 120 8).toNat ∨ w.extractLsb' 96 24 ≠ 0 ∨ w.extractLsb' 24 8 ≠ 0 ∨
    ((w.extractLsb' 120 8 = 1 ∨ w.extractLsb' 120 8 = 5 ∨ w.extractLsb' 120 8 = 6 ∨ w.extractLsb' 120 8 = 7) ∧
      w.extractLsb' 0 96 ≠ 0) ∨
    (w.extractLsb' 120 8 = 3 ∧ w.extractLsb' 64 32 ≠ 0) ∨
    (w.extractLsb' 120 8 = 4 ∧ (w.extractLsb' 64 32 ≠ 0 ∨ w.extractLsb' 0 24 ≠ 0))

theorem not_illFormed_encode (i : Instr) : ¬ IllFormed (encode i) := by
  rw [IllFormed, ← fieldOpc, ← fieldRes0, ← fieldRes1, ← fieldIdx]
  cases i with
  | init => decide
  | setPixel index r g b bright => simp [encode, opcSetPixel]
  | setAll r g b bright => simp [encode, opcSetAll]
  | setBrightness bright =>
    have hcolour : (encode (.setBrightness bright)).extractLsb' 0 24 = 0 :=
      colourFields_eq_zero (by simp [encode]) (by simp [encode]) (by simp [encode])
    rw [hcolour]
    simp [encode, opcSetBrightness]
  | clear => decide
  | showStrip => decide
  | shutdown => decide

/-- A step of an idle block takes an illegal word and records it (spec/60_exceptions.md R202). -/
theorem step_illegal {s : State} {w : Word} {rest : List Word} {why : Illegal} (hf : s.fault = none)
    (hp : s.pos = .idle) (hport : s.port = w :: rest) (hd : decode w = .illegal why) :
    step s = .next ((took s rest).withFault (.illegalCommand w)) := by
  rw [step_idle hf hp, accept, fetch_cons hport]
  simp only [hd]
  rfl

/-- Settles O9: no command's word is ill-formed. -/
theorem illegalWordIsRecorded : Obligations.IllegalWordIsRecorded := by
  intro s w rest hf hp hport hill
  obtain ⟨why, hd⟩ := decode_illegal_of fun i hi => not_illFormed_encode i (hi ▸ hill)
  exact ⟨step_illegal hf hp hport hd, rfl⟩

/-! ### Words as bytes -/

/-- The `n` low bytes of a word, most significant first. -/
def lowBytes (w : Word) (n : Nat) : List Byte := (List.range n).map fun k => w.extractLsb' (8 * (n - 1 - k)) 8

theorem lowBytes_succ (w : Word) (n : Nat) : lowBytes w (n + 1) = w.extractLsb' (8 * n) 8 :: lowBytes w n := by
  simp only [lowBytes, List.range_succ_eq_map, List.map_cons, List.map_map]
  refine congrArg₂ _ (by simp) (List.map_congr_left fun k _ => ?_)
  simp only [Function.comp_apply]
  congr 2
  omega

/-- The low bytes of a word read big-endian are its number modulo a power of 256 (spec/20_memory.md R54). -/
theorem natOfBytes_lowBytes (w : Word) (n : Nat) : natOfBytes (lowBytes w n) = w.toNat % 256 ^ n := by
  induction n with
  | zero => simp [lowBytes, natOfBytes, Nat.mod_one]
  | succ n ih =>
    have hlen : (lowBytes w n).length = n := by simp [lowBytes]
    have hbyte : (w.extractLsb' (8 * n) 8).toNat = w.toNat / 256 ^ n % 256 := by
      rw [BitVec.extractLsb'_toNat, Nat.shiftRight_eq_div_pow, Nat.pow_mul]
    rw [lowBytes_succ, natOfBytes, ih, hlen, hbyte, Nat.pow_succ, Nat.mod_mul]
    ring

theorem bytesOfWord_getElem? (w : Word) {n : Nat} (hn : n < 16) :
    (bytesOfWord w)[n]? = some (w.extractLsb' (120 - 8 * n) 8) := by
  have hstart : 8 * (15 - n) = 120 - 8 * n := by omega
  simp [bytesOfWord, hn, hstart]

theorem wordOfBytes_bytesOfWord (w : Word) : wordOfBytes (bytesOfWord w) = some w := by
  have hnat : natOfBytes (bytesOfWord w) = w.toNat := by
    have hlow := natOfBytes_lowBytes w 16
    rwa [show 256 ^ 16 = 2 ^ 128 from rfl, Nat.mod_eq_of_lt w.isLt] at hlow
  rw [wordOfBytes, if_pos (by simp [bytesOfWord]), hnat, BitVec.ofNat_toNat, BitVec.setWidth_eq]

/-- The brightness operand of a SET_BRIGHTNESS word is its bits [63:32]. -/
theorem brightness_of_decode {w : Word} {b : Binary32} (h : decode w = .cmd (.setBrightness b)) :
    b = w.extractLsb' 32 32 := by
  rw [← encode_of_decode h, ← fieldBri, encode, fieldBri_pack]

/-- Settles O10: the sixteen bytes are the word's digits in base 256, the most significant first. -/
theorem carrierIsBigEndian : Obligations.CarrierIsBigEndian := by
  intro w
  refine ⟨by simp [bytesOfWord], fun n => bytesOfWord_getElem? w, wordOfBytes_bytesOfWord w, fun b hb => ?_⟩
  obtain rfl := brightness_of_decode hb
  exact ⟨rfl, by simp [binSign]⟩

end Sys2Proof
end

section
/-! PROOFS. The invariant of the block: it holds after a construction, every operation that a step is made of keeps it,
and a block that meets it and has no fault has a step. -/

namespace Sys2Proof.Machine

open Sys2Proof.Stated

/-! ### Construction -/

/-- Settles O2: each field is set so by definition. -/
theorem constructionLeavesNothingElse : Obligations.ConstructionLeavesNothingElse := by
  intro cfg n
  have hlevel : ∀ p : Line, (State.construct cfg n).level.get p = none := by
    intro p
    cases p <;> rfl
  exact ⟨rfl, hlevel, rfl, rfl, rfl⟩

theorem BlockInv.construct {cfg : Config} {n : Nat} (hcfg : cfg.wf = true) (hn : n ≤ Config.maxPixels) :
    BlockInv (State.construct cfg n) where
  memory := replicate_zero_wf hn
  config := hcfg
  position := rfl
  lines := rfl
  running := rfl
  held := nofun
  unheld _ := rfl
  retired := nofun
  precise := nofun

/-- Settles O3: reset is a construction of the block described, whose line numbers are distinct. -/
theorem invariantHoldsAtConstruction : Obligations.InvariantHoldsAtConstruction :=
  ⟨fun _ _ => BlockInv.construct, BlockInv.construct Config.described_wf (by decide)⟩

/-! ### The operations of a command keep the invariant -/

section
variable {s : State}

theorem BlockInv.taken (h : BlockInv s) (rest : List Word) : BlockInv (s.taken rest) :=
  ⟨h.memory, h.config, h.position, h.lines, h.running, h.held, h.unheld, h.retired, h.precise⟩

theorem BlockInv.ask (h : BlockInv s) : BlockInv s.ask :=
  ⟨h.memory, h.config, h.position, h.lines, h.running, h.held, h.unheld, h.retired, h.precise⟩

theorem BlockInv.reply (h : BlockInv s) (st : Status) : BlockInv (reply st s) :=
  ⟨h.memory, h.config, h.position, h.lines, h.running, h.held, h.unheld, h.retired, h.precise⟩

theorem BlockInv.hold (h : BlockInv s) (hr : s.released = false) : BlockInv s.hold :=
  ⟨h.memory, h.config, h.position, h.lines, h.running, fun _ => rfl, nofun, fun hr' => by simp [hr] at hr', h.precise⟩

theorem BlockInv.withFault (h : BlockInv s) (hp : s.pos = .idle) (v : Violation) : BlockInv (s.withFault v) :=
  ⟨h.memory, h.config, h.position, h.lines, h.running, h.held, h.unheld, h.retired,
    fun _ => (s.withFault v).busy_eq_false.mpr hp⟩

/-- At Idle neither the position nor the levels depend on the buffer. -/
theorem BlockInv.setBuf (h : BlockInv s) (hp : s.pos = .idle) {m : Memory} (hm : m.wf = true) :
    BlockInv (s.setBuf m) := by
  have hposition := h.position
  have hlines := h.lines
  rw [hp] at hposition hlines
  refine ⟨hm, h.config, ?_, ?_, h.running, h.held, h.unheld, h.retired, h.precise⟩
  · rw [State.setBuf_pos, hp]
    exact hposition
  · rw [State.setBuf_pos, hp]
    exact hlines

/-- A transmission starts on levels as they are between transmissions. -/
theorem BlockInv.beginTransmit (h : BlockInv s) (hp : s.pos = .idle) (hf : s.fault = none)
    (hi : s.initialized = true) (r : Transmitter) : BlockInv (beginTransmit r s) := by
  have hlines := h.lines
  rw [hp] at hlines
  exact ⟨h.memory, h.config, rfl, hlines, rfl, fun _ => hi, h.unheld, h.retired,
    fun hh => by simp [State.halted, hf] at hh⟩

theorem BlockInv.retire (h : BlockInv s) (hp : s.pos = .idle) : BlockInv (retire s) := by
  have hbusy : s.busy = false := s.busy_eq_false.mpr hp
  refine ⟨h.memory, h.config, h.position, ?_, h.running, fun hb => ?_, fun _ => rfl, fun _ => rfl, h.precise⟩
  · rw [retire_pos, hp]
    rfl
  · exact absurd (hbusy.symm.trans hb) Bool.false_ne_true

/-! ### Commands -/

/-- The setup keeps the invariant where its continuation does on an idle block that holds the lines. -/
theorem BlockInv.withLines (h : BlockInv s) (hp : s.pos = .idle) (hf : s.fault = none) (hr : s.released = false)
    {k : State → State}
    (hk : ∀ u, BlockInv u → u.pos = .idle → u.fault = none → u.initialized = true → BlockInv (k u)) :
    BlockInv (withLines k s) := by
  obtain ⟨hi, heq⟩ | ⟨_, _, heq⟩ | ⟨_, e, _, heq⟩ := withLines_cases k s <;> rw [heq]
  · exact hk s h hp hf hi
  · exact hk _ (h.ask.hold hr) hp hf rfl
  · exact h.ask.reply _

theorem BlockInv.did (h : BlockInv s) (hp : s.pos = .idle) (hf : s.fault = none) (hr : s.released = false)
    {i : Instr} {t : State} (hd : Did i s t) : BlockInv t := by
  cases i with
  | init =>
    obtain rfl := hd
    exact h.withLines hp hf hr fun u hu _ _ _ => hu.reply _
  | setPixel index r g b bright =>
    obtain ⟨q, hq, _, rfl⟩ | ⟨_, _, _, rfl⟩ | ⟨_, rfl⟩ := hd
    · exact (h.setBuf hp (memWrite_wf h.memory _ (quantize_le hq))).reply _
    · exact h.withFault hp _
    · exact h.withFault hp _
  | setAll r g b bright =>
    obtain ⟨q, hq, rfl⟩ | ⟨_, rfl⟩ := hd
    · exact (h.setBuf hp (memFill_wf h.memory (quantize_le hq))).reply _
    · exact h.withFault hp _
  | setBrightness bright =>
    obtain ⟨q, hq, rfl⟩ | ⟨_, rfl⟩ := hd
    · exact (h.setBuf hp (memSetBrightness_wf h.memory (quantize_le hq))).reply _
    · exact h.withFault hp _
  | clear =>
    obtain rfl := hd
    exact (h.setBuf hp (memBlank_wf h.memory)).reply _
  | showStrip =>
    obtain rfl := hd
    exact h.withLines hp hf hr fun u hu hp' hf' hi => hu.beginTransmit hp' hf' hi _
  | shutdown =>
    have hblank := h.setBuf hp (memBlank_wf h.memory)
    obtain ⟨hi, rfl⟩ | ⟨_, rfl⟩ := hd
    · exact hblank.beginTransmit hp hf hi _
    · exact hblank.retire hp

theorem BlockInv.exec (h : BlockInv s) {i : Instr} {t : State} (hx : exec i s = .next t) : BlockInv t := by
  obtain ⟨hf, hp, ⟨_, rfl⟩ | ⟨hr, hd⟩⟩ := exec_next hx
  · exact h.withFault hp _
  · exact h.did hp hf hr hd

end

/-! ### Pin writes -/

/-- The position at which a data write of the payload or of the end frame is next. -/
inductive DataNext (n : Nat) : SeqPos → Prop where
  | pixel {i : Nat} (j : Fin 4) (k : Fin 8) (h : i < n) : DataNext n (.pixBit i j k .dat)
  | endFrame : DataNext n .endDat

theorem dataNext_firstPix (n : Nat) : DataNext n (firstPix n) := by
  unfold firstPix
  split
  · exact .pixel 0 7 ‹_›
  · exact .endFrame

theorem dataNext_afterBit {n i : Nat} (hi : i < n) (j : Fin 4) (k : Fin 8) : DataNext n (afterBit n i j k) := by
  unfold afterBit
  split_ifs with _ _ hnext
  · exact .pixel _ _ hi
  · exact .pixel _ _ hi
  · exact .pixel _ _ hnext
  · exact .endFrame

theorem DataNext.wf {n : Nat} {p : SeqPos} (h : DataNext n p) (efp : Nat) : p.wf efp n = true := by
  cases h with
  | pixel j k hi => exact decide_eq_true hi
  | endFrame => rfl

theorem DataNext.linesFit {n : Nat} {p : SeqPos} (h : DataNext n p) (m : Memory) (d : Bool) :
    linesFit m p ⟨some d, some false, some false⟩ = true := by
  cases h <;> rfl

/-- The successor of a position in range is in range. -/
theorem succ_wf {efp n : Nat} {p : SeqPos} (h : p.wf efp n = true) : (succ efp n p).wf efp n = true := by
  cases p with
  | idle => rfl
  | csLow => rfl
  | startDat => rfl
  | csHigh => rfl
  | endDat =>
    simp only [succ]
    split
    · exact decide_eq_true ‹_›
    · rfl
  | startClk k hf =>
    cases hf with
    | rise => exact h
    | fall =>
      simp only [succ]
      split
      · exact decide_eq_true ‹_›
      · exact (dataNext_firstPix n).wf efp
  | endClk k hf =>
    cases hf with
    | rise => exact h
    | fall =>
      simp only [succ]
      split
      · exact decide_eq_true ‹_›
      · rfl
  | pixBit i j k st =>
    cases st with
    | dat => exact h
    | rise => exact h
    | fall => exact (dataNext_afterBit (of_decide_eq_true h) j k).wf efp

theorem between_cases {l : Levels} (h : l.between = true) : l = Levels.unknown ∨ l = Levels.resting := by
  simpa [Levels.between] using h

/-- The levels after a position's pin write are as the successor says. -/
theorem linesFit_succ {efp : Nat} {m : Memory} {p : SeqPos} {l : Levels} {e : PinEvent} (hp : p ≠ .idle)
    (hw : writeAt m p = some e) (hwf : p.wf efp m.length = true) (hl : linesFit m p l = true) :
    linesFit m (succ efp m.length p) (l.drive e) = true := by
  cases p with
  | idle => exact absurd rfl hp
  | csLow =>
    obtain rfl := Option.some.inj hw
    obtain rfl | rfl := between_cases hl <;> rfl
  | startDat =>
    obtain rfl := Option.some.inj hw
    obtain ⟨dat, clk, cs⟩ := l
    obtain ⟨rfl, hclk⟩ : cs = some false ∧ clk ≠ some true := by simpa [linesFit] using hl
    cases clk with
    | none => rfl
    | some c =>
      cases c with
      | false => rfl
      | true => exact absurd rfl hclk
  | startClk k hf =>
    obtain rfl := Option.some.inj hw
    cases hf with
    | rise =>
      obtain ⟨dat, clk, cs⟩ := l
      obtain ⟨⟨rfl, rfl⟩, _⟩ : (cs = some false ∧ dat = some false) ∧ _ := by simpa [linesFit] using hl
      rfl
    | fall =>
      obtain rfl := eq_of_beq hl
      simp only [succ]
      split
      · rfl
      · exact (dataNext_firstPix m.length).linesFit m false
  | pixBit i j k st =>
    have hi : i < m.length := of_decide_eq_true hwf
    obtain ⟨px, hpx⟩ := Option.isSome_iff_exists.mp (memRead_isSome hi)
    have hdata : dataOf m i j k = some (bit (byteOf px j) k) := by rw [dataOf, hpx, Option.map_some]
    cases st with
    | dat =>
      obtain rfl : (.dat, bit (byteOf px j) k) = e := by simpa [writeAt, hpx] using hw
      obtain ⟨dat, clk, cs⟩ := l
      obtain ⟨⟨rfl, rfl⟩, _⟩ : (cs = some false ∧ clk = some false) ∧ dat.isSome = true := by
        simpa [linesFit] using hl
      simp [succ, linesFit, Levels.drive, hdata]
    | rise =>
      obtain rfl : (.clk, true) = e := by simpa [writeAt, hpx] using hw
      obtain rfl := eq_of_beq hl
      simp [succ, linesFit, Levels.drive]
    | fall =>
      obtain rfl : (.clk, false) = e := by simpa [writeAt, hpx] using hw
      obtain rfl := eq_of_beq hl
      rw [hdata]
      exact (dataNext_afterBit hi j k).linesFit m _
  | endDat =>
    obtain rfl := Option.some.inj hw
    obtain ⟨dat, clk, cs⟩ := l
    obtain ⟨⟨rfl, rfl⟩, _⟩ : (cs = some false ∧ clk = some false) ∧ dat.isSome = true := by simpa [linesFit] using hl
    simp only [succ]
    split <;> rfl
  | endClk k hf =>
    obtain rfl := Option.some.inj hw
    cases hf with
    | rise =>
      obtain rfl := eq_of_beq hl
      rfl
    | fall =>
      obtain rfl := eq_of_beq hl
      simp only [succ]
      split <;> rfl
  | csHigh =>
    obtain rfl := Option.some.inj hw
    obtain rfl := eq_of_beq hl
    rfl

section
variable {s : State} {e : PinEvent}

/-- A pin write that does not end the transmission. -/
theorem BlockInv.pinWrite_moving (h : BlockInv s) (hp : s.pos ≠ .idle) (hw : writeAt s.buf s.pos = some e)
    (hq : succ s.cfg.endFramePulses s.buf.length s.pos ≠ .idle) :
    BlockInv ((pinWrite e s).atPos (succ s.cfg.endFramePulses s.buf.length s.pos)) := by
  have hbusy : s.busy = true := s.busy_eq_true.mpr hp
  have hbusy' := ((pinWrite e s).atPos (succ s.cfg.endFramePulses s.buf.length s.pos)).busy_eq_true.mpr hq
  exact {
    memory := h.memory
    config := h.config
    position := succ_wf h.position
    lines := linesFit_succ hp hw h.position h.lines
    running := h.running.trans (hbusy.trans hbusy'.symm)
    held := fun _ => h.held hbusy
    unheld := fun hi => absurd (hi.symm.trans (h.held hbusy)) Bool.false_ne_true
    retired := h.retired
    precise := fun hh => absurd (hbusy.symm.trans (h.precise hh)) Bool.noConfusion }

/-- The last pin write, before its command ends. -/
theorem BlockInv.pinWrite_last (h : BlockInv s) (hp : s.pos ≠ .idle) (hw : writeAt s.buf s.pos = some e)
    (hq : succ s.cfg.endFramePulses s.buf.length s.pos = .idle) :
    BlockInv (((pinWrite e s).atPos .idle).withRunning none) where
  memory := h.memory
  config := h.config
  position := rfl
  lines := by
    have hlines := linesFit_succ hp hw h.position h.lines
    rwa [hq] at hlines
  running := rfl
  held := nofun
  unheld hi := absurd (hi.symm.trans (h.held (s.busy_eq_true.mpr hp))) Bool.false_ne_true
  retired := h.retired
  precise _ := rfl

theorem BlockInv.arrive (h : BlockInv s) (hp : s.pos ≠ .idle) (hw : writeAt s.buf s.pos = some e) :
    BlockInv (arrive (succ s.cfg.endFramePulses s.buf.length s.pos) (pinWrite e s)) := by
  by_cases hq : succ s.cfg.endFramePulses s.buf.length s.pos = .idle
  · have hlast := h.pinWrite_last hp hw hq
    rw [hq, arrive_idle]
    obtain ⟨_, heq⟩ | ⟨_, heq⟩ | ⟨hnone, _⟩ := finishTransmit_cases ((pinWrite e s).atPos .idle)
    · rw [heq]
      exact hlast.retire rfl
    · rw [heq]
      exact hlast.reply .ok
    · have hrunning := h.running
      rw [s.busy_eq_true.mpr hp, show s.running = none from hnone] at hrunning
      cases hrunning
  · rw [arrive_moving hq]
    exact h.pinWrite_moving hp hw hq

end

/-! ### The obligations -/

/-- Settles O4: each thing a step can be made of keeps the invariant. -/
theorem stepKeepsInvariant : Obligations.StepKeepsInvariant := by
  intro s t h hstep
  obtain ⟨_, ⟨hp, hseq⟩ | ⟨_, _, rfl⟩ | ⟨hp, w, rest, _, _, _, rfl⟩ | ⟨_, w, rest, i, _, _, hexec⟩⟩ := step_next hstep
  · obtain ⟨_, e, hw, rfl⟩ := sequencerStep_next hp hseq
    exact h.arrive hp hw
  · exact h
  · exact (h.taken rest).withFault hp _
  · exact (h.taken rest).exec hexec

/-- A failed brightness check answers a next state too. -/
theorem withBrightness_answers {b : Binary32} {body : Byte → State → Result} {s : State}
    (h : ∀ q, ∃ t, body q s = .next t) : ∃ t, withBrightness b body s = .next t := by
  obtain ⟨q, _, heq⟩ | ⟨_, heq⟩ := withBrightness_cases b body s
  · rw [heq]
    exact h q
  · exact ⟨_, heq⟩

/-- A failed index check answers a next state too. -/
theorem withIndex_answers {index : Index} {body : Nat → State → Result} {s : State}
    (h : ∃ t, body index.toNat s = .next t) : ∃ t, withIndex index body s = .next t := by
  obtain ⟨_, heq⟩ | ⟨_, heq⟩ := withIndex_cases index body s
  · rw [heq]
    exact h
  · exact ⟨_, heq⟩

/-- Every command of a block that may start one answers a next state. -/
theorem exec_answers (i : Instr) {s : State} (hf : s.fault = none) (hp : s.pos = .idle) :
    ∃ t, exec i s = .next t := by
  rw [exec_eq_command]
  cases hr : s.released with
  | true => exact ⟨_, command_released _ _ hf hp hr⟩
  | false =>
    rw [command_open _ _ hf hp hr]
    cases i with
    | init => exact ⟨_, rfl⟩
    | setPixel index r g b bright =>
      rw [bodyOf]
      exact withBrightness_answers fun q => withIndex_answers ⟨_, rfl⟩
    | setAll r g b bright =>
      rw [bodyOf]
      exact withBrightness_answers fun q => ⟨_, rfl⟩
    | setBrightness bright =>
      rw [bodyOf]
      exact withBrightness_answers fun q => ⟨_, rfl⟩
    | clear => exact ⟨_, rfl⟩
    | showStrip => exact ⟨_, rfl⟩
    | shutdown => exact ⟨_, rfl⟩

/-- A step of an idle block takes the next word and is the command it decodes to (spec/20_memory.md R55). -/
theorem step_cmd {s : State} {w : Word} {rest : List Word} {i : Instr} (hf : s.fault = none) (hp : s.pos = .idle)
    (hport : s.port = w :: rest) (hd : decode w = .cmd i) : step s = exec i (took s rest) := by
  rw [step_idle hf hp, accept, fetch_cons hport]
  simp only [hd]
  rfl

theorem step_noWord {s : State} (hf : s.fault = none) (hp : s.pos = .idle) (hport : s.port = []) :
    step s = .next s := by
  rw [step_idle hf hp, accept, fetch_nil hport]

/-- An idle block without a fault always steps. -/
theorem step_answers_of_idle {s : State} (hf : s.fault = none) (hp : s.pos = .idle) : ∃ t, step s = .next t := by
  cases hport : s.port with
  | nil => exact ⟨s, step_noWord hf hp hport⟩
  | cons w rest =>
    cases hd : decode w with
    | illegal why => exact ⟨_, step_illegal hf hp hport hd⟩
    | cmd i =>
      rw [step_cmd hf hp hport hd]
      exact exec_answers i hf hp

theorem sequencerStep_not_refused (s : State) (r : Refusal) : sequencerStep s ≠ .refused r := by
  unfold sequencerStep
  split_ifs
  · nofun
  · nofun
  · cases writeAt s.buf s.pos <;> nofun

/-- Settles O5: at Idle every word has an answer, and away from Idle the invariant gives the pin write and the lines. -/
theorem unfaultedBlockAlwaysSteps : Obligations.UnfaultedBlockAlwaysSteps := by
  constructor
  · intro s h hf
    by_cases hp : s.pos = .idle
    · exact step_answers_of_idle hf hp
    · obtain ⟨e, he⟩ := writeAt_isSome h.position hp
      exact ⟨_, (step_busy hf hp).trans (sequencerStep_write (h.held (s.busy_eq_true.mpr hp)) he)⟩
  · intro s r hs
    cases hf : s.fault with
    | some v =>
      rw [step_halted hf] at hs
      cases hs
    | none =>
      by_cases hp : s.pos = .idle
      · obtain ⟨t, ht⟩ := step_answers_of_idle hf hp
        rw [ht] at hs
        cases hs
      · rw [step_busy hf hp] at hs
        exact sequencerStep_not_refused s r hs

end Sys2Proof.Machine
end

section
/-! PROOFS. What a command and a step can do to each part of the block: the effects of the seven commands listed once,
the pin write of a transmission, and what follows for the flags, the platform, the port and the trace. -/

namespace Sys2Proof.Machine

open Sys2Proof.Stated

/-! ### The state a successful setup leaves -/

section
variable (s : State)

theorem settled_of_held {s : State} (h : s.initialized = true) : settled s = s := if_pos h

theorem settled_of_unheld {s : State} (h : s.initialized = false) : settled s = s.ask.hold := by
  simp [settled, h]

/-- A field that neither asking nor holding writes is as it was before the setup. -/
theorem settled_field {α : Type} (f : State → α) (h : f s.ask.hold = f s) : f (settled s) = f s := by
  unfold settled
  split
  · rfl
  · exact h

@[simp] theorem settled_cfg : (settled s).cfg = s.cfg := settled_field s State.cfg rfl
@[simp] theorem settled_buf : (settled s).buf = s.buf := settled_field s State.buf rfl
@[simp] theorem settled_level : (settled s).level = s.level := settled_field s State.level rfl
@[simp] theorem settled_pos : (settled s).pos = s.pos := settled_field s State.pos rfl
@[simp] theorem settled_released : (settled s).released = s.released := settled_field s State.released rfl
@[simp] theorem settled_fault : (settled s).fault = s.fault := settled_field s State.fault rfl
@[simp] theorem settled_trace : (settled s).trace = s.trace := settled_field s State.trace rfl
@[simp] theorem settled_port : (settled s).port = s.port := settled_field s State.port rfl
@[simp] theorem settled_running : (settled s).running = s.running := settled_field s State.running rfl
@[simp] theorem settled_replies : (settled s).replies = s.replies := settled_field s State.replies rfl

@[simp] theorem settled_initialized : (settled s).initialized = true := by
  unfold settled
  split
  · assumption
  · rfl

/-- The setup goes on from the settled state, or fails. -/
theorem withLines_settled (k : State → State) :
    ((s.initialized = true ∨ nextAnswer s = .success) ∧ withLines k s = k (settled s)) ∨
      (s.initialized = false ∧ ∃ e, nextAnswer s = .failure e ∧ withLines k s = reply (.deviceError e) s.ask) := by
  obtain ⟨hi, heq⟩ | ⟨hi, ha, heq⟩ | hfail := withLines_cases k s
  · exact .inl ⟨.inl hi, by rw [heq, settled_of_held hi]⟩
  · exact .inl ⟨.inr ha, by rw [heq, settled_of_unheld hi]⟩
  · exact .inr hfail

end

/-! ### Commands -/

/-- The effects of a command that answers a next state. -/
inductive CommandEffect (i : Instr) (s : State) : State → Prop where
  /-- A check failed. -/
  | fault (v : Violation) : CommandEffect i s (s.withFault v)
  /-- A buffer command wrote the buffer. -/
  | wrote (hi : IsBufferCommand i) {m : Memory} (hm : m.length = s.buf.length) :
      CommandEffect i s (reply .ok (s.setBuf m))
  /-- INIT or SHOW did not get the lines. -/
  | failed (hi : i = .init ∨ i = .showStrip) (hinit : s.initialized = false) {e : PlatformError}
      (hans : nextAnswer s = .failure e) : CommandEffect i s (reply (.deviceError e) s.ask)
  /-- INIT has the lines. -/
  | setUp (hi : i = .init) (hgot : s.initialized = true ∨ nextAnswer s = .success) :
      CommandEffect i s (reply .ok (settled s))
  /-- SHOW has the lines and begins. -/
  | showing (hi : i = .showStrip) (hgot : s.initialized = true ∨ nextAnswer s = .success) :
      CommandEffect i s (beginTransmit .showing (settled s))
  /-- SHUTDOWN with the lines held begins. -/
  | stopping (hi : i = .shutdown) (hinit : s.initialized = true) :
      CommandEffect i s (beginTransmit .shuttingDown (s.setBuf (memBlank s.buf)))
  /-- SHUTDOWN without the lines is over at once. -/
  | retired (hi : i = .shutdown) (hinit : s.initialized = false) :
      CommandEffect i s (retire (s.setBuf (memBlank s.buf)))

theorem CommandEffect.of_did {i : Instr} {s t : State} (h : Did i s t) : CommandEffect i s t := by
  cases i with
  | init =>
    obtain rfl := h
    obtain ⟨hgot, heq⟩ | ⟨hinit, e, hans, heq⟩ := withLines_settled s (reply .ok)
    · exact heq ▸ .setUp rfl hgot
    · exact heq ▸ .failed (.inl rfl) hinit hans
  | setPixel index r g b bright =>
    obtain ⟨_, _, _, rfl⟩ | ⟨_, _, _, rfl⟩ | ⟨_, rfl⟩ := h
    · exact .wrote (by trivial) (memWrite_length _ _ _)
    · exact .fault _
    · exact .fault _
  | setAll r g b bright =>
    obtain ⟨_, _, rfl⟩ | ⟨_, rfl⟩ := h
    · exact .wrote (by trivial) (memFill_length _ _)
    · exact .fault _
  | setBrightness bright =>
    obtain ⟨_, _, rfl⟩ | ⟨_, rfl⟩ := h
    · exact .wrote (by trivial) (memSetBrightness_length _ _)
    · exact .fault _
  | clear =>
    obtain rfl := h
    exact .wrote (by trivial) (memBlank_length _)
  | showStrip =>
    obtain rfl := h
    obtain ⟨hgot, heq⟩ | ⟨hinit, e, hans, heq⟩ := withLines_settled s (beginTransmit .showing)
    · exact heq ▸ .showing rfl hgot
    · exact heq ▸ .failed (.inr rfl) hinit hans
  | shutdown =>
    obtain ⟨hinit, rfl⟩ | ⟨hinit, rfl⟩ := h
    · exact .stopping rfl hinit
    · exact .retired rfl hinit

theorem exec_effect {i : Instr} {s t : State} (h : exec i s = .next t) :
    s.fault = none ∧ s.pos = .idle ∧ CommandEffect i s t := by
  obtain ⟨hf, hp, ⟨_, rfl⟩ | ⟨_, hdid⟩⟩ := exec_next h
  · exact ⟨hf, hp, .fault _⟩
  · exact ⟨hf, hp, .of_did hdid⟩

/-- A command gives no step to a halted block. -/
theorem exec_halted (i : Instr) {s : State} {v : Violation} (h : s.fault = some v) : exec i s = .fault (.halted v) := by
  rw [exec_eq_command]
  simp [command, h]

theorem exec_busy (i : Instr) {s : State} (hf : s.fault = none) (hp : s.pos ≠ .idle) : exec i s = .refused .portBusy := by
  rw [exec_eq_command]
  simp [command, hf, State.busy, hp]

/-- What no command changes, whatever its effect. -/
theorem CommandEffect.frame {i : Instr} {s t : State} (h : CommandEffect i s t) :
    t.cfg = s.cfg ∧ t.buf.length = s.buf.length ∧ (s.released = true → t.released = true) ∧ t.trace = s.trace := by
  cases h with
  | fault v => exact ⟨rfl, rfl, id, rfl⟩
  | wrote hi hm => exact ⟨rfl, hm, id, rfl⟩
  | failed => exact ⟨rfl, rfl, id, rfl⟩
  | setUp => simp
  | showing => simp
  | stopping => simp
  | retired => simp

/-! ### The end of a transmission -/

section
variable (s : State)

/-- A field that ends of commands do not write is as it was before. -/
theorem finishTransmit_field {α : Type} (f : State → α) (hretire : f (retire (s.withRunning none)) = f s)
    (hreply : f (reply .ok (s.withRunning none)) = f s) : f (finishTransmit s) = f s := by
  obtain ⟨_, heq⟩ | ⟨_, heq⟩ | ⟨_, heq⟩ := finishTransmit_cases s <;> rw [heq]
  · exact hretire
  · exact hreply

variable (p : SeqPos)

theorem arrive_field {α : Type} (f : State → α) (hpos : ∀ u q, f (u.atPos q) = f u)
    (hfinish : ∀ u, f (finishTransmit u) = f u) : f (arrive p s) = f s := by
  unfold arrive
  split
  · rw [hfinish, hpos]
  · exact hpos _ _

@[simp] theorem arrive_cfg : (arrive p s).cfg = s.cfg :=
  arrive_field s p State.cfg (fun _ _ => rfl) fun u => finishTransmit_field u State.cfg rfl rfl
@[simp] theorem arrive_buf : (arrive p s).buf = s.buf :=
  arrive_field s p State.buf (fun _ _ => rfl) fun u => finishTransmit_field u State.buf rfl rfl
@[simp] theorem arrive_fault : (arrive p s).fault = s.fault :=
  arrive_field s p State.fault (fun _ _ => rfl) fun u => finishTransmit_field u State.fault rfl rfl
@[simp] theorem arrive_trace : (arrive p s).trace = s.trace :=
  arrive_field s p State.trace (fun _ _ => rfl) fun u => finishTransmit_field u State.trace rfl rfl
@[simp] theorem arrive_port : (arrive p s).port = s.port :=
  arrive_field s p State.port (fun _ _ => rfl) fun u => finishTransmit_field u State.port rfl rfl
@[simp] theorem arrive_answers : (arrive p s).answers = s.answers :=
  arrive_field s p State.answers (fun _ _ => rfl) fun u => finishTransmit_field u State.answers rfl rfl
@[simp] theorem arrive_asked : (arrive p s).asked = s.asked :=
  arrive_field s p State.asked (fun _ _ => rfl) fun u => finishTransmit_field u State.asked rfl rfl

@[simp] theorem arrive_pos : (arrive p s).pos = p := by
  by_cases hp : p = .idle
  · subst hp
    rw [arrive_idle]
    exact finishTransmit_field (s.atPos .idle) State.pos rfl rfl
  · rw [arrive_moving hp, State.atPos_pos]

/-- Coming to a position keeps the flags and the levels, or ends SHUTDOWN. -/
theorem arrive_flags :
    (p = .idle ∧ s.running = some .shuttingDown ∧ (arrive p s).initialized = false ∧ (arrive p s).released = true ∧
        (arrive p s).level = Levels.unknown) ∨
      ((arrive p s).initialized = s.initialized ∧ (arrive p s).released = s.released ∧
        (arrive p s).level = s.level) := by
  by_cases hp : p = .idle
  · subst hp
    rw [arrive_idle]
    obtain ⟨hrun, heq⟩ | ⟨_, heq⟩ | ⟨_, heq⟩ := finishTransmit_cases (s.atPos .idle) <;> rw [heq]
    · exact .inl ⟨rfl, hrun, rfl, rfl, rfl⟩
    · exact .inr ⟨rfl, rfl, rfl⟩
    · exact .inr ⟨rfl, rfl, rfl⟩
  · rw [arrive_moving hp]
    exact .inr ⟨rfl, rfl, rfl⟩

end

/-! ### Pin writes -/

theorem Levels.get_drive_same (l : Levels) (e : PinEvent) : (l.drive e).get e.1 = some e.2 := by
  obtain ⟨p, v⟩ := e
  cases p <;> rfl

theorem Levels.get_drive_other (l : Levels) (e : PinEvent) {p : Line} (h : p ≠ e.1) : (l.drive e).get p = l.get p := by
  obtain ⟨q, v⟩ := e
  cases q <;> cases p <;> simp_all [Levels.get, Levels.drive]

/-- A step away from Idle is one pin write and the arrival at the successor. -/
theorem step_pinWrite {s t : State} (hp : s.pos ≠ .idle) (h : step s = .next t) :
    s.fault = none ∧ s.initialized = true ∧ ∃ e, writeAt s.buf s.pos = some e ∧
      t = arrive (succ s.cfg.endFramePulses s.buf.length s.pos) (pinWrite e s) := by
  obtain ⟨hf, ⟨_, hseq⟩ | ⟨hidle, _⟩ | ⟨hidle, _⟩ | ⟨hidle, _⟩⟩ := step_next h
  · exact ⟨hf, sequencerStep_next hp hseq⟩
  · exact absurd hidle hp
  · exact absurd hidle hp
  · exact absurd hidle hp

/-- A step at Idle does nothing, rejects a word, or is the effect of a command. -/
theorem step_idle_effect {s t : State} (hp : s.pos = .idle) (h : step s = .next t) :
    s.fault = none ∧ ((s.port = [] ∧ t = s) ∨
      (∃ w rest, s.port = w :: rest ∧ t = (s.taken rest).withFault (.illegalCommand w)) ∨
      ∃ w rest i, s.port = w :: rest ∧ decode w = .cmd i ∧ CommandEffect i (s.taken rest) t) := by
  obtain ⟨hf, ⟨hbusy, _⟩ | ⟨_, hport, ht⟩ | ⟨_, w, rest, _, hport, _, ht⟩ | ⟨_, w, rest, i, hport, hdec, hexec⟩⟩ :=
    step_next h
  · exact absurd hp hbusy
  · exact ⟨hf, .inl ⟨hport, ht⟩⟩
  · exact ⟨hf, .inr (.inl ⟨w, rest, hport, ht⟩)⟩
  · obtain ⟨_, _, heff⟩ := exec_effect hexec
    exact ⟨hf, .inr (.inr ⟨w, rest, i, hport, hdec, heff⟩)⟩

/-! ### The obligations about steps -/

/-- Settles O12: the idle block's port gives the word to the decoder. -/
theorem stepRunsDecodedCommand : Obligations.StepRunsDecodedCommand := fun _ _ _ _ => step_cmd

/-- Settles O13: the step and the gate of every command look at the fault first. -/
theorem haltedBlockTakesNoStep : Obligations.HaltedBlockTakesNoStep :=
  fun _ _ h => ⟨step_halted h, fun i => exec_halted i h⟩

/-- Settles O14: the port has nothing to take. -/
theorem idleBlockKeepsItsState : Obligations.IdleBlockKeepsItsState := fun _ => step_noWord

/-- Settles O15: a pin write leaves port and buffer alone, and the gate of every command refuses. -/
theorem transmissionTakesNoCommand : Obligations.TransmissionTakesNoCommand := by
  intro s hf hp
  refine ⟨fun t h => ?_, fun i => exec_busy i hf hp⟩
  obtain ⟨_, _, e, _, rfl⟩ := step_pinWrite hp h
  simp

/-- Settles O16: the write drives its line alone, and then SHUTDOWN's end releases all three or none is released. -/
theorem pinWriteIsRecordedAndDriven : Obligations.PinWriteIsRecordedAndDriven := by
  intro s t hp h
  obtain ⟨_, _, e, hw, rfl⟩ := step_pinWrite hp h
  refine ⟨e, hw, by simp, ?_⟩
  obtain ⟨hidle, hrun, _, _, hlevel⟩ | ⟨_, _, hlevel⟩ := arrive_flags (pinWrite e s) _
  · exact .inl ⟨(arrive_pos _ _).trans hidle, hrun, hlevel⟩
  · refine .inr ⟨?_, fun p hne => ?_⟩
    · rw [hlevel]
      exact s.level.get_drive_same e
    · rw [hlevel]
      exact s.level.get_drive_other e hne

/-- Settles O17: by the effects of a command at Idle, and by the one pin write away from it. -/
theorem oneWayState : Obligations.OneWayState := by
  intro s t h
  by_cases hp : s.pos = .idle
  · obtain ⟨hf, ⟨_, rfl⟩ | ⟨w, rest, _, rfl⟩ | ⟨w, rest, i, _, _, heff⟩⟩ := step_idle_effect hp h
    · exact ⟨rfl, rfl, id, hf, .inl rfl⟩
    · exact ⟨rfl, rfl, id, hf, .inl rfl⟩
    · obtain ⟨hcfg, hlen, hrel, htrace⟩ := heff.frame
      exact ⟨hcfg, hlen, hrel, hf, .inl htrace⟩
  · obtain ⟨hf, _, e, _, rfl⟩ := step_pinWrite hp h
    refine ⟨by simp, by simp, fun hrel => ?_, hf, .inr ⟨hp, e, by simp⟩⟩
    obtain ⟨_, _, _, hreleased, _⟩ | ⟨_, hreleased, _⟩ := arrive_flags (pinWrite e s) _
    · exact hreleased
    · rw [hreleased]
      exact hrel

/-- An acquiring command's word stands at the front of the port. -/
theorem acquiringWord_of {s : State} {w : Word} {rest : List Word} {i : Instr} (hport : s.port = w :: rest)
    (hdec : decode w = .cmd i) (hi : i = .init ∨ i = .showStrip) : AcquiringWord s :=
  ⟨w, rest, hport, hi.imp (fun h => hdec.trans (congrArg _ h)) fun h => hdec.trans (congrArg _ h)⟩

/-- A command that gets the lines had a success to come. -/
theorem CommandEffect.acquired {i : Instr} {s t : State} (h : CommandEffect i s t) (hs : s.initialized = false)
    (ht : t.initialized = true) : nextAnswer s = .success ∧ (i = .init ∨ i = .showStrip) := by
  cases h with
  | fault v => exact absurd (hs.symm.trans ht) Bool.false_ne_true
  | wrote hi hm => exact absurd (hs.symm.trans ht) Bool.false_ne_true
  | failed hi hinit hans => exact absurd (hs.symm.trans ht) Bool.false_ne_true
  | setUp hi hgot => exact ⟨hgot.resolve_left (by simp [hs]), .inl hi⟩
  | showing hi hgot => exact ⟨hgot.resolve_left (by simp [hs]), .inr hi⟩
  | stopping hi hinit => exact absurd (hs.symm.trans hinit) Bool.false_ne_true
  | retired hi hinit => exact absurd ht Bool.false_ne_true

/-- No command by itself gives up the lines: SHUTDOWN's end does. -/
theorem CommandEffect.keeps_lines {i : Instr} {s t : State} (h : CommandEffect i s t) (hs : s.initialized = true) :
    t.initialized = true := by
  cases h with
  | fault v => exact hs
  | wrote hi hm => exact hs
  | failed hi hinit hans => exact hs
  | setUp hi hgot => exact settled_initialized s
  | showing hi hgot => exact settled_initialized s
  | stopping hi hinit => exact hs
  | retired hi hinit => exact absurd (hinit.symm.trans hs) Bool.false_ne_true

/-- Settles O18: a command can only get the lines, and only the arrival at Idle can give them up. -/
theorem handleChangesOnlyByAcquisitionAndShutdown : Obligations.HandleChangesOnlyByAcquisitionAndShutdown := by
  intro s t h
  by_cases hp : s.pos = .idle
  · obtain ⟨_, ⟨_, rfl⟩ | ⟨w, rest, _, rfl⟩ | ⟨w, rest, i, hport, hdec, heff⟩⟩ := step_idle_effect hp h
    · exact ⟨fun hs ht => absurd (hs.symm.trans ht) Bool.false_ne_true,
        fun hs ht => absurd (ht.symm.trans hs) Bool.false_ne_true⟩
    · exact ⟨fun hs ht => absurd (hs.symm.trans ht) Bool.false_ne_true,
        fun hs ht => absurd (ht.symm.trans hs) Bool.false_ne_true⟩
    · refine ⟨fun hs ht => ?_, fun hs ht => absurd (ht.symm.trans (heff.keeps_lines hs)) Bool.false_ne_true⟩
      obtain ⟨hans, hi⟩ := heff.acquired hs ht
      exact ⟨hp, hans, acquiringWord_of hport hdec hi⟩
  · obtain ⟨_, hinit, e, _, rfl⟩ := step_pinWrite hp h
    refine ⟨fun hs => absurd (hs.symm.trans hinit) Bool.false_ne_true, fun hs ht => ?_⟩
    obtain ⟨hidle, hrun, _, hreleased, _⟩ | ⟨hkept, _⟩ := arrive_flags (pinWrite e s) _
    · exact ⟨(succ_eq_idle hp).mp hidle, hrun, hreleased⟩
    · exact absurd ((ht.symm.trans hkept).trans hs) Bool.false_ne_true

/-- A command asks the platform not at all, or once, as INIT or SHOW without the lines. -/
theorem CommandEffect.asked {i : Instr} {s t : State} (h : CommandEffect i s t) :
    (t.asked = s.asked ∧ t.answers = s.answers) ∨
      (s.initialized = false ∧ (i = .init ∨ i = .showStrip) ∧ t.asked = s.asked + 1 ∧ t.answers = s.answers.tail ∧
        (nextAnswer s = .success → t.initialized = true)) := by
  cases h with
  | fault v => exact .inl ⟨rfl, rfl⟩
  | wrote hi hm => exact .inl ⟨rfl, rfl⟩
  | failed hi hinit hans => exact .inr ⟨hinit, hi, rfl, rfl, fun h => by simp [hans] at h⟩
  | setUp hi hgot =>
    cases hinit : s.initialized with
    | true => exact .inl (by simp [settled_of_held hinit])
    | false => exact .inr (by simp [settled_of_unheld hinit, hi])
  | showing hi hgot =>
    cases hinit : s.initialized with
    | true => exact .inl (by simp [settled_of_held hinit])
    | false => exact .inr (by simp [settled_of_unheld hinit, hi])
  | stopping hi hinit => exact .inl ⟨rfl, rfl⟩
  | retired hi hinit => exact .inl ⟨rfl, rfl⟩

/-- INIT and SHOW ask exactly once where the lines are not held. -/
theorem exec_asks {i : Instr} {s : State} (hi : i = .init ∨ i = .showStrip) (hs : Accepting s)
    (hinit : s.initialized = false) :
    ∃ t, exec i s = .next t ∧ t.asked = s.asked + 1 ∧ t.answers = s.answers.tail := by
  have hasks : ∀ k : State → State, (∀ u, (k u).asked = u.asked ∧ (k u).answers = u.answers) →
      (withLines k s).asked = s.asked + 1 ∧ (withLines k s).answers = s.answers.tail := by
    intro k hk
    obtain ⟨hheld, _⟩ | ⟨_, _, heq⟩ | ⟨_, _, _, heq⟩ := withLines_cases k s
    · exact absurd (hinit.symm.trans hheld) Bool.false_ne_true
    · rw [heq]
      exact hk s.ask.hold
    · rw [heq]
      exact ⟨rfl, rfl⟩
  rw [exec_accepting i hs]
  obtain rfl | rfl := hi
  · exact ⟨_, rfl, hasks (reply .ok) fun _ => ⟨rfl, rfl⟩⟩
  · exact ⟨_, rfl, hasks (beginTransmit .showing) fun _ => ⟨rfl, rfl⟩⟩

/-- Settles O19: `CommandEffect.asked` bounds the requests of every command, `exec_asks` those of INIT and SHOW. -/
theorem setupIsIdempotent : Obligations.SetupIsIdempotent := by
  refine ⟨fun s t h hasked => ?_, fun i s t hinit h => ?_, fun i s hi hs hinit => exec_asks hi hs hinit⟩
  · by_cases hp : s.pos = .idle
    · obtain ⟨_, ⟨_, rfl⟩ | ⟨w, rest, _, rfl⟩ | ⟨w, rest, i, hport, hdec, heff⟩⟩ := step_idle_effect hp h
      · exact absurd rfl hasked
      · exact absurd rfl hasked
      · obtain ⟨hsame, _⟩ | ⟨hinit, hi, hmore, _, hgot⟩ := heff.asked
        · exact absurd hsame hasked
        · exact ⟨hinit, hmore, acquiringWord_of hport hdec hi, hgot⟩
    · obtain ⟨_, _, e, _, rfl⟩ := step_pinWrite hp h
      exact absurd (by simp) hasked
  · obtain ⟨_, _, heff⟩ := exec_effect h
    obtain hsame | ⟨hunheld, _⟩ := heff.asked
    · exact hsame
    · exact absurd (hunheld.symm.trans hinit) Bool.false_ne_true

/-- A command that leaves a fault it did not find changed nothing else. -/
theorem CommandEffect.precise {i : Instr} {s t : State} (h : CommandEffect i s t) {v : Violation}
    (hs : s.fault = none) (ht : t.fault = some v) : t = s.withFault v := by
  cases h with
  | fault v' => exact congrArg s.withFault (Option.some.inj ht)
  | wrote hi hm => simp [hs] at ht
  | failed hi hinit hans => simp [hs] at ht
  | setUp hi hgot => simp [hs] at ht
  | showing hi hgot => simp [hs] at ht
  | stopping hi hinit => simp [hs] at ht
  | retired hi hinit => simp [hs] at ht

/-- Settles O21: a pin write records no fault, and of a command's effects only a failed check leaves one. -/
theorem faultsArePrecise : Obligations.FaultsArePrecise := by
  intro s t v h hv
  by_cases hp : s.pos = .idle
  · obtain ⟨hf, ⟨_, rfl⟩ | ⟨w, rest, hport, rfl⟩ | ⟨w, rest, i, hport, _, heff⟩⟩ := step_idle_effect hp h
    · simp [hf] at hv
    · obtain rfl := Option.some.inj hv
      exact ⟨hp, hp, w, rest, hport, rfl⟩
    · obtain rfl := heff.precise hf hv
      exact ⟨hp, hp, w, rest, hport, rfl⟩
  · obtain ⟨hf, _, e, _, rfl⟩ := step_pinWrite hp h
    simp [hf] at hv

/-- A command that leaves Idle is SHOW or SHUTDOWN. -/
theorem CommandEffect.transmits {i : Instr} {s t : State} (h : CommandEffect i s t) (hs : s.pos = .idle)
    (ht : t.pos ≠ .idle) : i = .showStrip ∨ i = .shutdown := by
  cases h with
  | fault v => exact absurd hs ht
  | wrote hi hm => exact absurd hs ht
  | failed hi hinit hans => exact absurd hs ht
  | setUp hi hgot => exact absurd ((settled_pos s).trans hs) ht
  | showing hi hgot => exact .inl hi
  | stopping hi hinit => exact .inr hi
  | retired hi hinit => exact absurd hs ht

/-- Settles O35: a buffer command's effects are a failed check and a buffer write; Idle is left by two commands. -/
theorem bufferCommandsLeaveLinesAlone : Obligations.BufferCommandsLeaveLinesAlone := by
  constructor
  · intro i s t hbuf h
    obtain ⟨_, _, heff⟩ := exec_effect h
    cases heff with
    | fault v => exact ⟨rfl, rfl, rfl, rfl, rfl, rfl, rfl, .inl rfl⟩
    | wrote hi hm => exact ⟨rfl, rfl, rfl, rfl, rfl, rfl, rfl, .inr rfl⟩
    | failed hi hinit hans => obtain rfl | rfl := hi <;> exact hbuf.elim
    | setUp hi hgot => exact (hi ▸ hbuf : IsBufferCommand .init).elim
    | showing hi hgot => exact (hi ▸ hbuf : IsBufferCommand .showStrip).elim
    | stopping hi hinit => exact (hi ▸ hbuf : IsBufferCommand .shutdown).elim
    | retired hi hinit => exact (hi ▸ hbuf : IsBufferCommand .shutdown).elim
  · intro s t h
    by_cases hp : s.pos = .idle
    · obtain ⟨_, ⟨_, rfl⟩ | ⟨w, rest, _, rfl⟩ | ⟨w, rest, i, hport, hdec, heff⟩⟩ := step_idle_effect hp h
      · exact ⟨fun htrace => absurd rfl htrace, fun _ hne => absurd hp hne⟩
      · exact ⟨fun htrace => absurd rfl htrace, fun _ hne => absurd hp hne⟩
      · obtain ⟨_, _, _, hsame⟩ := heff.frame
        refine ⟨fun htrace => absurd hsame htrace, fun _ hne => ⟨w, rest, hport, ?_⟩⟩
        exact (heff.transmits hp hne).imp (fun hi => hdec.trans (congrArg _ hi)) fun hi => hdec.trans (congrArg _ hi)
    · exact ⟨fun _ => hp, fun hidle => absurd hidle hp⟩

end Sys2Proof.Machine
end

section
/-! PROOFS. The latches and the trace are read by nothing (spec/10_state.md sections 3 and 5): every operation gives the
same outcome on a state and on what remains of it without them. -/

namespace Sys2Proof.Machine

open Sys2Proof.Stated

/-- The outcome does not depend on the latches and the trace, but for them. -/
def Unread (f : State → Result) : Prop := ∀ s, unseenOutcome (f s) = unseenOutcome (f (unseen s))

/-- The same of an operation that always answers. -/
def UnreadUpdate (k : State → State) : Prop := ∀ s, unseen (k s) = unseen (k (unseen s))

theorem UnreadUpdate.next {k : State → State} (h : UnreadUpdate k) : Unread fun s => .next (k s) :=
  fun s => congrArg Host.Outcome.next (h s)

theorem unread_raise (v : Violation) : Unread (raise v) := fun _ => rfl

theorem unread_command {body : State → Result} (h : Unread body) (opc : Byte) : Unread (command opc body) := by
  intro s
  cases hf : s.fault with
  | some v => simp [command, unseen, hf]
  | none =>
    by_cases hp : s.pos = .idle
    · cases hr : s.released with
      | true =>
        rw [command_released opc body hf hp hr, command_released (s := unseen s) opc body hf hp hr]
        exact unread_raise _ s
      | false =>
        rw [command_open opc body hf hp hr, command_open (s := unseen s) opc body hf hp hr]
        exact h s
    · simp [command, unseen, hf, State.busy, hp]

theorem unread_withBrightness {body : Byte → State → Result} (h : ∀ q, Unread (body q)) (b : Binary32) :
    Unread (withBrightness b body) := by
  intro s
  unfold withBrightness
  rw [show (unseen s).cfg = s.cfg from rfl]
  cases quantize s.cfg.quantMode b with
  | some q => exact h q s
  | none => exact unread_raise _ s

theorem unread_withIndex {body : Nat → State → Result} (h : ∀ i, Unread (body i)) (index : Index) :
    Unread (withIndex index body) := by
  intro s
  unfold withIndex
  rw [show (unseen s).buf = s.buf from rfl]
  split
  · exact h _ s
  · exact unread_raise _ s

theorem withLines_held {s : State} (k : State → State) (hinit : s.initialized = true) : withLines k s = k s := by
  simp [withLines, hinit]

theorem withLines_success {s : State} (k : State → State) (hinit : s.initialized = false)
    (hans : nextAnswer s = .success) : withLines k s = k s.ask.hold := by
  simp [withLines, acquireLines, hinit, hans]

theorem unread_withLines {k : State → State} (h : UnreadUpdate k) : UnreadUpdate (withLines k) := by
  intro s
  cases hi : s.initialized with
  | true =>
    rw [withLines_held k hi, withLines_held (s := unseen s) k hi]
    exact h s
  | false =>
    cases ha : nextAnswer s with
    | success =>
      rw [withLines_success k hi ha, withLines_success (s := unseen s) k hi ha]
      exact h s.ask.hold
    | failure e =>
      rw [withLines_failure k hi ha, withLines_failure (s := unseen s) k hi ha]
      rfl

theorem unread_bodyOf (i : Instr) : Unread (bodyOf i) := by
  cases i with
  | init => exact (unread_withLines fun _ => rfl).next
  | setPixel index r g b bright =>
    exact unread_withBrightness (fun _ => unread_withIndex (fun _ => UnreadUpdate.next fun _ => rfl) index) bright
  | setAll r g b bright => exact unread_withBrightness (fun _ => UnreadUpdate.next fun _ => rfl) bright
  | setBrightness bright => exact unread_withBrightness (fun _ => UnreadUpdate.next fun _ => rfl) bright
  | clear => exact UnreadUpdate.next fun _ => rfl
  | showStrip => exact (unread_withLines fun _ => rfl).next
  | shutdown =>
    refine UnreadUpdate.next fun s => ?_
    rw [show (unseen s).initialized = s.initialized from rfl]
    split <;> rfl

theorem unread_exec (i : Instr) : Unread (exec i) := by
  rw [funext (exec_eq_command i)]
  exact unread_command (unread_bodyOf i) (opcodeOf i)

theorem unread_finishTransmit : UnreadUpdate finishTransmit := by
  intro s
  unfold finishTransmit
  rw [show (unseen s).running = s.running from rfl]
  split <;> rfl

theorem unread_arrive (p : SeqPos) : UnreadUpdate (arrive p) := by
  intro s
  unfold arrive
  split
  · exact unread_finishTransmit (s.atPos p)
  · rfl

/-- A pin write touches the latches and the trace alone (spec/42_serializer.md R161). -/
theorem unseen_pinWrite (e : PinEvent) (s : State) : unseen (pinWrite e s) = unseen s := rfl

theorem unread_sequencerStep : Unread sequencerStep := by
  intro s
  have hwrite : ∀ (p : SeqPos) (e : PinEvent),
      unseen (arrive p (pinWrite e s)) = unseen (arrive p (pinWrite e (unseen s))) := fun p e => by
    rw [unread_arrive, unread_arrive p (pinWrite e (unseen s)), unseen_pinWrite, unseen_pinWrite]
    rfl
  unfold sequencerStep
  rw [show (unseen s).pos = s.pos from rfl, show (unseen s).initialized = s.initialized from rfl,
    show (unseen s).buf = s.buf from rfl, show (unseen s).cfg = s.cfg from rfl]
  split_ifs
  · rfl
  · rfl
  · cases writeAt s.buf s.pos with
    | none => rfl
    | some e => exact congrArg Host.Outcome.next (hwrite _ e)

theorem unread_accept : Unread accept := by
  intro s
  unfold accept
  cases hport : s.port with
  | nil =>
    rw [fetch_nil hport, fetch_nil (s := unseen s) hport]
    rfl
  | cons w rest =>
    rw [fetch_cons hport, fetch_cons (s := unseen s) hport]
    cases hd : decode w with
    | cmd i =>
      simp only [hd]
      exact unread_exec i (s.taken rest)
    | illegal why =>
      simp only [hd]
      exact unread_raise (.illegalCommand w) (s.taken rest)

theorem unread_step : Unread step := by
  intro s
  cases hf : s.fault with
  | some v =>
    rw [step_halted hf, step_halted (s := unseen s) hf]
  | none =>
    by_cases hp : s.pos = .idle
    · rw [step_idle hf hp, step_idle (s := unseen s) hf hp]
      exact unread_accept s
    · rw [step_busy hf hp, step_busy (s := unseen s) hf hp]
      exact unread_sequencerStep s

/-- Settles O22: no operation that a step or a command is made of reads a latch or the trace. -/
theorem latchesAndTraceAreUnread : Obligations.LatchesAndTraceAreUnread := ⟨unread_step, unread_exec⟩

end Sys2Proof.Machine
end

section
/-! PROOFS. The lines during a transmission (spec/42_serializer.md section 5), read off the invariant: data is steady
while the clock is high, and chip-select frames the transaction. -/

namespace Sys2Proof.Machine

open Sys2Proof.Stated

/-! ### What the invariant says of the levels before a write -/

/-- A data write finds the clock not high, and low but for the start frame's. -/
theorem clk_of_datWrite {m : Memory} {p : SeqPos} {l : Levels} {v : Bool} (hw : writeAt m p = some (.dat, v))
    (hl : linesFit m p l = true) : l.clk ≠ some true ∧ (p ≠ .startDat → l.clk = some false) := by
  cases p with
  | startDat => simp_all [linesFit]
  | endDat => simp_all [linesFit]
  | pixBit i j k st =>
    cases st with
    | dat => simp_all [linesFit]
    | rise => simp [writeAt] at hw
    | fall => simp [writeAt] at hw
  | idle => simp [writeAt] at hw
  | csLow => simp [writeAt] at hw
  | startClk k h => simp [writeAt] at hw
  | endClk k h => simp [writeAt] at hw
  | csHigh => simp [writeAt] at hw

/-- A clock write finds a known level on the data line. -/
theorem dat_of_clkWrite {m : Memory} {p : SeqPos} {l : Levels} {v : Bool} (hw : writeAt m p = some (.clk, v))
    (hl : linesFit m p l = true) : l.dat.isSome = true := by
  cases p with
  | startClk k h => cases h <;> simp_all [linesFit]
  | endClk k h => cases h <;> simp_all [linesFit]
  | pixBit i j k st =>
    cases st with
    | dat => simp [writeAt] at hw
    | rise =>
      obtain ⟨px, hpx, _⟩ := Option.map_eq_some_iff.mp hw
      simp_all [linesFit, dataOf]
    | fall =>
      obtain ⟨px, hpx, _⟩ := Option.map_eq_some_iff.mp hw
      simp_all [linesFit, dataOf]
  | startDat => simp [writeAt] at hw
  | endDat => simp [writeAt] at hw
  | idle => simp [writeAt] at hw
  | csLow => simp [writeAt] at hw
  | csHigh => simp [writeAt] at hw

/-- Chip-select is written at the first and at the last position alone, and is low at the last. -/
theorem cs_of_csWrite {m : Memory} {p : SeqPos} {l : Levels} {v : Bool} (hw : writeAt m p = some (.cs, v))
    (hl : linesFit m p l = true) : (p = .csLow ∧ v = false) ∨ (p = .csHigh ∧ l.cs = some false ∧ v = true) := by
  cases p with
  | csLow => simp_all [writeAt]
  | csHigh => simp_all [writeAt, linesFit]
  | pixBit i j k st => cases st <;> simp [writeAt] at hw
  | startDat => simp [writeAt] at hw
  | endDat => simp [writeAt] at hw
  | startClk k h => simp [writeAt] at hw
  | endClk k h => simp [writeAt] at hw
  | idle => simp [writeAt] at hw

/-! ### Steps -/

/-- At Idle no step adds to the trace. -/
theorem idle_trace {s t : State} (hp : s.pos = .idle) (h : step s = .next t) : t.trace = s.trace := by
  obtain ⟨_, _, _, _, htrace | ⟨hne, _⟩⟩ := oneWayState s t h
  · exact htrace
  · exact absurd hp hne

/-- A step that adds an event to the trace is that pin write. -/
theorem step_event {s t : State} {e : PinEvent} (h : step s = .next t) (ht : t.trace = s.trace ++ [e]) :
    s.pos ≠ .idle ∧ writeAt s.buf s.pos = some e ∧
      t = arrive (succ s.cfg.endFramePulses s.buf.length s.pos) (pinWrite e s) := by
  have hp : s.pos ≠ .idle := fun hp => by simp [idle_trace hp h] at ht
  obtain ⟨_, _, e', hw, rfl⟩ := step_pinWrite hp h
  obtain rfl : e' = e := by simpa using ht
  exact ⟨hp, hw, rfl⟩

/-- No clock write is the last of a transmission, so none is followed by a release. -/
theorem clkWrite_level {s : State} {v : Bool} (hp : s.pos ≠ .idle) (hw : writeAt s.buf s.pos = some (.clk, v)) :
    (arrive (succ s.cfg.endFramePulses s.buf.length s.pos) (pinWrite (.clk, v) s)).level = s.level.drive (.clk, v) := by
  have hq : succ s.cfg.endFramePulses s.buf.length s.pos ≠ .idle := fun hq => by
    rw [(succ_eq_idle hp).mp hq] at hw
    simp [writeAt] at hw
  rw [arrive_moving hq]
  rfl

/-- Settles O51: the invariant gives the levels at the position that is written, and the clock line is not the data
line. -/
theorem dataSteadyWhileClockHigh : Obligations.DataSteadyWhileClockHigh := by
  intro s t v hinv h
  constructor
  · intro ht
    obtain ⟨_, hw, _⟩ := step_event h ht
    exact clk_of_datWrite hw hinv.lines
  · intro ht
    obtain ⟨hp, hw, rfl⟩ := step_event h ht
    refine ⟨dat_of_clkWrite hw hinv.lines, ?_⟩
    rw [clkWrite_level hp hw]
    rfl

/-- A command that changes the levels gives up lines that were not held. -/
theorem CommandEffect.level {i : Instr} {s t : State} (h : CommandEffect i s t) :
    t.level = s.level ∨ (s.initialized = false ∧ t.level = Levels.unknown) := by
  cases h with
  | fault v => exact .inl rfl
  | wrote hi hm => exact .inl rfl
  | failed hi hinit hans => exact .inl rfl
  | setUp hi hgot => exact .inl (settled_level s)
  | showing hi hgot => exact .inl (settled_level s)
  | stopping hi hinit => exact .inl rfl
  | retired hi hinit => exact .inr ⟨hinit, rfl⟩

/-- At Idle no step changes a level, because lines that are not held have none. -/
theorem idle_level {s t : State} (hinv : BlockInv s) (hp : s.pos = .idle) (h : step s = .next t) :
    t.level = s.level := by
  obtain ⟨_, ⟨_, rfl⟩ | ⟨w, rest, _, rfl⟩ | ⟨w, rest, i, _, _, heff⟩⟩ := step_idle_effect hp h
  · rfl
  · rfl
  · obtain hsame | ⟨hinit, hlevel⟩ := heff.level
    · exact hsame
    · rw [hlevel, hinv.unheld hinit]

theorem cs_drive_of_ne {l : Levels} {e : PinEvent} (h : e.1 ≠ .cs) : (l.drive e).cs = l.cs :=
  l.get_drive_other e (Ne.symm h)

/-! ### The events of a transaction -/

theorem mem_pulses {n : Nat} {e : PinEvent} (h : e ∈ pulses n) : e.1 = .clk := by
  obtain ⟨es, hes, he⟩ := List.mem_flatten.mp h
  rw [List.eq_of_mem_replicate hes] at he
  obtain rfl | rfl : e = (.clk, true) ∨ e = (.clk, false) := by simpa [pulse] using he
  · rfl
  · rfl

theorem mem_sendPixel {p : Pixel} {e : PinEvent} (h : e ∈ sendPixel p) : e.1 ≠ .cs := by
  obtain ⟨_, hbytes, hbyte⟩ := List.mem_flatten.mp h
  obtain ⟨b, _, rfl⟩ := List.mem_map.mp hbytes
  obtain ⟨_, hbits, he⟩ := List.mem_flatten.mp hbyte
  obtain ⟨k, _, rfl⟩ := List.mem_map.mp hbits
  obtain rfl | rfl | rfl : e = (.dat, bit b k) ∨ e = (.clk, true) ∨ e = (.clk, false) := by
    simpa [sendBit, pulse] using he
  all_goals nofun

/-- The events between the two chip-select writes. -/
def framedEvents (efp : Nat) (m : Memory) : List PinEvent :=
  startFrame ++ (m.map sendPixel).flatten ++ endFrame efp

theorem transmitEvents_framed (efp : Nat) (m : Memory) :
    transmitEvents efp m = (.cs, false) :: framedEvents efp m ++ [(.cs, true)] := by
  simp [transmitEvents, framedEvents]

theorem mem_framedEvents {efp : Nat} {m : Memory} {e : PinEvent} (h : e ∈ framedEvents efp m) : e.1 ≠ .cs := by
  simp only [framedEvents, startFrame, endFrame, List.mem_append, List.mem_cons] at h
  obtain ((rfl | hstart) | hpix) | (rfl | hend) := h
  · nofun
  · rw [mem_pulses hstart]
    nofun
  · obtain ⟨es, hes, he⟩ := List.mem_flatten.mp hpix
    obtain ⟨p, _, rfl⟩ := List.mem_map.mp hes
    exact mem_sendPixel he
  · nofun
  · rw [mem_pulses hend]
    nofun

/-- Settles O52: only a write of the chip-select line or the release changes its level, and the invariant says at which
positions it is written. -/
theorem chipSelectFramesTheTransaction : Obligations.ChipSelectFramesTheTransaction := by
  refine ⟨fun s t hinv h hne => ?_, fun efp m => ⟨framedEvents efp m, transmitEvents_framed efp m,
    fun _ => mem_framedEvents⟩⟩
  have hp : s.pos ≠ .idle := fun hp => hne (by rw [idle_level hinv hp h])
  obtain ⟨_, _, ⟨p, v⟩, hw, rfl⟩ := step_pinWrite hp h
  obtain ⟨hidle, _, _, hreleased, hlevel⟩ | ⟨_, _, hlevel⟩ := arrive_flags (pinWrite (p, v) s)
      (succ s.cfg.endFramePulses s.buf.length s.pos)
  · have hlast := (succ_eq_idle hp).mp hidle
    have hlines := hinv.lines
    rw [hlast] at hlines
    exact .inr ⟨hlast, by simp_all [linesFit], .inr ⟨by rw [hlevel]; rfl, hreleased⟩⟩
  · rw [hlevel] at hne ⊢
    obtain rfl : p = .cs := by
      by_contra hline
      exact hne (cs_drive_of_ne hline)
    obtain ⟨hpos, rfl⟩ | ⟨hpos, hlow, rfl⟩ := cs_of_csWrite hw hinv.lines
    · exact .inl ⟨hpos, rfl⟩
    · exact .inr ⟨hpos, hlow, .inl rfl⟩

end Sys2Proof.Machine
end

section
/-! PROOFS. The brightness operand (spec/30_encoding.md R77): its units in order of the bit patterns, and the patterns in
contract. -/

namespace Sys2Proof.Machine

open Sys2Proof.Stated

/-! ### The units of a pattern without its sign -/

/-- The units of the number whose exponent and fraction fields are those 31 bits, read as if no exponent were special. -/
def magnitudeUnits (n : Nat) : Nat :=
  if n / 2 ^ 23 = 0 then n % 2 ^ 23 else (2 ^ 23 + n % 2 ^ 23) * 2 ^ (n / 2 ^ 23 - 1)

/-- The next pattern is the next number: one more fraction, or the next exponent with fraction zero. -/
theorem magnitudeUnits_lt_succ (n : Nat) : magnitudeUnits n < magnitudeUnits (n + 1) := by
  unfold magnitudeUnits
  by_cases hcarry : n % 2 ^ 23 + 1 < 2 ^ 23
  · have hexp : (n + 1) / 2 ^ 23 = n / 2 ^ 23 := by omega
    have hfrac : (n + 1) % 2 ^ 23 = n % 2 ^ 23 + 1 := by omega
    rw [hexp, hfrac]
    split
    · omega
    · exact Nat.mul_lt_mul_of_pos_right (by omega) (by positivity)
  · have hexp : (n + 1) / 2 ^ 23 = n / 2 ^ 23 + 1 := by omega
    have hfrac : (n + 1) % 2 ^ 23 = 0 := by omega
    rw [hexp, hfrac, if_neg (Nat.succ_ne_zero _), Nat.add_sub_cancel]
    split
    · rename_i hzero
      rw [hzero]
      omega
    · have hpow : 2 ^ (n / 2 ^ 23) = 2 * 2 ^ (n / 2 ^ 23 - 1) := by
        rw [← Nat.pow_succ', Nat.succ_eq_add_one]
        congr 1
        omega
      have hpos : 0 < 2 ^ (n / 2 ^ 23 - 1) := by positivity
      have hlt : 2 ^ 23 + n % 2 ^ 23 < 2 ^ 24 := by omega
      rw [hpow]
      nlinarith

theorem magnitudeUnits_strictMono : StrictMono magnitudeUnits := strictMono_nat_of_lt_succ magnitudeUnits_lt_succ

theorem magnitudeUnits_one : magnitudeUnits 0x3F800000 = unitsOfOne := by decide

theorem magnitudeUnits_eq_zero {n : Nat} : magnitudeUnits n = 0 ↔ n = 0 :=
  magnitudeUnits_strictMono.injective.eq_iff' (by decide)

/-! ### The reading of a pattern -/

theorem binExp_eq (b : Binary32) : binExp b = b.toNat % 2 ^ 31 / 2 ^ 23 := by
  rw [binExp, BitVec.extractLsb'_toNat, Nat.shiftRight_eq_div_pow]
  omega

theorem binFrac_eq (b : Binary32) : binFrac b = b.toNat % 2 ^ 31 % 2 ^ 23 := by
  rw [binFrac, BitVec.extractLsb'_toNat, Nat.shiftRight_zero]
  omega

theorem binSign_eq (b : Binary32) : binSign b = decide (2 ^ 31 ≤ b.toNat) := by
  rw [binSign, show (31 : Nat) = 32 - 1 from rfl, ← BitVec.msb_eq_getLsbD_last, BitVec.msb_eq_decide]

/-- A pattern whose exponent is not special is so many units. -/
theorem readBinary32_finite {b : Binary32} (h : b.toNat % 2 ^ 31 < 255 * 2 ^ 23) :
    readBinary32 b = .finite (binSign b) (magnitudeUnits (b.toNat % 2 ^ 31)) := by
  unfold readBinary32 magnitudeUnits
  rw [binExp_eq, binFrac_eq, if_neg (by omega)]
  split <;> rfl

/-- A special exponent is no number. -/
theorem contractUnits_special {b : Binary32} (h : 255 * 2 ^ 23 ≤ b.toNat % 2 ^ 31) : contractUnits b = none := by
  have hexp : binExp b = 255 := by
    rw [binExp_eq]
    omega
  unfold contractUnits readBinary32
  rw [if_pos hexp]
  by_cases hfrac : binFrac b ≠ 0
  · rw [if_pos hfrac]
  · rw [if_neg hfrac]

/-- A pattern without a sign meets the contract up to the pattern of 1. -/
theorem contractUnits_of_lt {b : Binary32} (h : b.toNat < 2 ^ 31) :
    contractUnits b = if b.toNat ≤ 0x3F800000 then some (magnitudeUnits b.toNat) else none := by
  have hmod : b.toNat % 2 ^ 31 = b.toNat := Nat.mod_eq_of_lt h
  by_cases hspecial : 255 * 2 ^ 23 ≤ b.toNat
  · rw [contractUnits_special (by omega), if_neg (by omega)]
  · have hsign : binSign b = false := by
      rw [binSign_eq]
      exact decide_eq_false (by omega)
    rw [contractUnits, readBinary32_finite (by omega), hsign, hmod]
    simp only [← magnitudeUnits_one, magnitudeUnits_strictMono.le_iff_le]

/-- A pattern with a sign meets the contract as negative zero alone (spec/92_eei_decisions.md D32). -/
theorem contractUnits_of_ge {b : Binary32} (h : 2 ^ 31 ≤ b.toNat) :
    contractUnits b = if b = 0x80000000 then some 0 else none := by
  have hlt : b.toNat < 2 ^ 32 := b.isLt
  have hzero : b = 0x80000000 ↔ b.toNat % 2 ^ 31 = 0 := by
    rw [← BitVec.toNat_inj, show (0x80000000 : Binary32).toNat = 2 ^ 31 from rfl]
    omega
  by_cases hspecial : 255 * 2 ^ 23 ≤ b.toNat % 2 ^ 31
  · rw [contractUnits_special hspecial, if_neg (by rw [hzero]; omega)]
  · have hsign : binSign b = true := by
      rw [binSign_eq]
      exact decide_eq_true h
    rw [contractUnits, readBinary32_finite (by omega), hsign]
    simp only [hzero, magnitudeUnits_eq_zero]

theorem contractUnits_isSome_iff (b : Binary32) :
    (contractUnits b).isSome = true ↔ b.toNat ≤ 0x3F800000 ∨ b = 0x80000000 := by
  by_cases h : b.toNat < 2 ^ 31
  · have hne : b ≠ 0x80000000 := by
      rintro rfl
      exact absurd h (by decide)
    rw [contractUnits_of_lt h]
    split <;> simp_all
  · rw [contractUnits_of_ge (by omega)]
    have hgt : ¬ b.toNat ≤ 0x3F800000 := by omega
    split <;> simp_all

/-! ### Units and values -/

theorem binVal_of_contractUnits {b : Binary32} {u : Nat} (h : contractUnits b = some u) :
    binVal b = some ((u : ℚ) / 2 ^ 149) := by
  rw [binVal_eq_value]
  unfold contractUnits at h
  cases hread : readBinary32 b with
  | nan => simp [hread] at h
  | infinite neg => simp [hread] at h
  | finite neg units =>
    rw [hread] at h
    cases neg with
    | true =>
      obtain ⟨rfl, rfl⟩ : units = 0 ∧ 0 = u := by simpa using h
      simp [Reading.value]
    | false =>
      obtain ⟨_, rfl⟩ : units ≤ unitsOfOne ∧ units = u := by simpa using h
      simp [Reading.value, zpow_neg, div_eq_mul_inv]

theorem inContract_iff_contractUnits (b : Binary32) : InContract b ↔ ∃ u, contractUnits b = some u := by
  refine ⟨contractUnits_of_inContract, fun ⟨u, hu⟩ => ⟨_, binVal_of_contractUnits hu, by positivity, ?_⟩⟩
  rw [div_le_one (by positivity)]
  exact_mod_cast contractUnits_le hu

/-- Settles O23: units are strictly monotone in the pattern, so the contract's bound is a bound on the pattern. -/
theorem brightnessReadingIsBinary32 : Obligations.BrightnessReadingIsBinary32 := by
  intro b
  have hcontract : (contractUnits b).isSome = true ↔ InContract b := by
    rw [inContract_iff_contractUnits, Option.isSome_iff_exists]
  exact ⟨fun _ => binVal_of_contractUnits, hcontract, hcontract.symm.trans (contractUnits_isSome_iff b)⟩

theorem quantize_eq_none_iff (mode : QuantMode) (b : Binary32) : quantize mode b = none ↔ ¬ InContract b := by
  rw [inContract_iff_contractUnits, quantize, Option.map_eq_none_iff, ← Option.isSome_iff_exists,
    Option.not_isSome_iff_eq_none]

end Sys2Proof.Machine
end

section
/-! PROOFS. The quantized brightness (spec/40_strip_ops.md R101, R102): the binary32 product is the nearest one, ties to
even, and rounding keeps the order. -/

namespace Sys2Proof.Machine

open Sys2Proof.Stated

/-! ### Rounding to the nearest multiple of the step -/

/-- The significand that `rne32` rounds to, one more than 24 bits where it carries. -/
def roundedSignificand (p : Nat) : Nat :=
  let step := 2 ^ excessBits p
  if 2 * (p % step) > step ∨ (2 * (p % step) = step ∧ p / step % 2 = 1) then p / step + 1 else p / step

theorem rne32_eq (p : Nat) : rne32 p = roundedSignificand p * 2 ^ excessBits p := rfl

/-- The rounded number is within half a step, and has an even significand where it is half a step away. -/
theorem rne32_near (p : Nat) :
    2 * |(rne32 p : ℤ) - p| ≤ (2 ^ excessBits p : ℕ) ∧
      (2 * |(rne32 p : ℤ) - p| = (2 ^ excessBits p : ℕ) → Even (roundedSignificand p)) := by
  have hpos : 0 < 2 ^ excessBits p := by positivity
  have hrem := Nat.mod_lt p hpos
  have hdiv : (p : ℤ) = (2 ^ excessBits p : ℕ) * (p / 2 ^ excessBits p : ℕ) + (p % 2 ^ excessBits p : ℕ) := by
    exact_mod_cast (Nat.div_add_mod p (2 ^ excessBits p)).symm
  rw [rne32_eq, roundedSignificand, Nat.even_iff]
  generalize 2 ^ excessBits p = step at *
  generalize p / step = q at *
  generalize p % step = r at *
  rw [hdiv]
  split_ifs with hup
  · have hdist : (((q + 1) * step : ℕ) : ℤ) - (step * q + r) = step - r := by
      push_cast
      ring
    rw [hdist, abs_of_nonneg (by omega)]
    omega
  · have hdist : ((q * step : ℕ) : ℤ) - (step * q + r) = -r := by
      push_cast
      ring
    rw [hdist, abs_neg, abs_of_nonneg (by omega)]
    omega

/-- No multiple of the step is nearer, and one as near means an even significand. -/
theorem rne32_nearest_multiple (p k : Nat) :
    |(rne32 p : ℤ) - p| ≤ |((k * 2 ^ excessBits p : ℕ) : ℤ) - p| ∧
      (k * 2 ^ excessBits p ≠ rne32 p → |((k * 2 ^ excessBits p : ℕ) : ℤ) - p| = |(rne32 p : ℤ) - p| →
        Even (roundedSignificand p)) := by
  by_cases hk : k * 2 ^ excessBits p = rne32 p
  · rw [hk]
    exact ⟨le_rfl, fun h => absurd rfl h⟩
  obtain ⟨hnear, heven⟩ := rne32_near p
  have hapart : ((2 ^ excessBits p : ℕ) : ℤ) ≤ |((k * 2 ^ excessBits p : ℕ) : ℤ) - rne32 p| := by
    have hne : (k : ℤ) - roundedSignificand p ≠ 0 := fun h => by
      obtain rfl : k = roundedSignificand p := by omega
      exact hk rfl
    rw [rne32_eq]
    push_cast
    rw [← sub_mul, abs_mul, abs_of_pos (by positivity : (0 : ℤ) < 2 ^ excessBits p)]
    exact le_mul_of_one_le_left (by positivity) (Int.one_le_abs hne)
  have htriangle := abs_sub_le ((k * 2 ^ excessBits p : ℕ) : ℤ) p (rne32 p)
  rw [abs_sub_comm (p : ℤ)] at htriangle
  exact ⟨by omega, fun _ heq => heven (by omega)⟩

/-! ### Binary32 numbers in units -/

/-- So many units are a binary32 number, its size aside. -/
def IsBinary32Units (y : Nat) : Prop := ∃ m j : Nat, m < 2 ^ 24 ∧ y = m * 2 ^ j

/-- Above 24 bits the number has at least `2^23` steps. -/
theorem steps_le {p : Nat} (h : excessBits p ≠ 0) : 2 ^ 23 * 2 ^ excessBits p ≤ p := by
  have hlog : 23 + excessBits p = p.log2 := by
    unfold excessBits at *
    omega
  have hp : p ≠ 0 := by
    rintro rfl
    exact h (by simp [excessBits])
  rw [← Nat.pow_add, hlog]
  exact Nat.log2_self_le hp

/-- A binary32 number is a multiple of the step, or is below all numbers with that step. -/
theorem IsBinary32Units.multiple_or_small {y : Nat} (h : IsBinary32Units y) (p : Nat) :
    (∃ k, y = k * 2 ^ excessBits p) ∨ (y < 2 ^ 23 * 2 ^ excessBits p ∧ 2 ^ 23 * 2 ^ excessBits p ≤ p) := by
  obtain ⟨m, j, hm, rfl⟩ := h
  by_cases hj : excessBits p ≤ j
  · refine .inl ⟨m * 2 ^ (j - excessBits p), ?_⟩
    rw [mul_assoc, ← Nat.pow_add, Nat.sub_add_cancel hj]
  · refine .inr ⟨?_, steps_le (by omega)⟩
    calc m * 2 ^ j < 2 ^ 24 * 2 ^ j := Nat.mul_lt_mul_of_pos_right hm (by positivity)
      _ = 2 ^ 23 * 2 ^ (j + 1) := by ring
      _ ≤ 2 ^ 23 * 2 ^ excessBits p := Nat.mul_le_mul_left _ (Nat.pow_le_pow_right (by norm_num) (by omega))

/-- No binary32 number is nearer than `rne32`, and one as near means an even significand. -/
theorem rne32_nearest (p : Nat) {y : Nat} (hy : IsBinary32Units y) :
    |(rne32 p : ℤ) - p| ≤ |(y : ℤ) - p| ∧
      (y ≠ rne32 p → |(y : ℤ) - p| = |(rne32 p : ℤ) - p| → Even (roundedSignificand p)) := by
  obtain ⟨k, rfl⟩ | ⟨hsmall, hle⟩ := hy.multiple_or_small p
  · exact rne32_nearest_multiple p k
  · obtain ⟨hnear, _⟩ := rne32_nearest_multiple p (2 ^ 23)
    have hlt : |((2 ^ 23 * 2 ^ excessBits p : ℕ) : ℤ) - p| < |(y : ℤ) - p| := by
      rw [abs_of_nonpos (by omega), abs_of_nonpos (by omega)]
      omega
    exact ⟨(hnear.trans_lt hlt).le, fun _ heq => absurd heq (hnear.trans_lt hlt).ne'⟩

theorem lt_steps (p : Nat) : p < 2 ^ 24 * 2 ^ excessBits p := by
  rw [← Nat.pow_add]
  by_cases hp : p = 0
  · rw [hp]
    positivity
  · refine (Nat.log2_lt hp).mp ?_
    unfold excessBits
    omega

/-- The rounded significand has 24 bits, or is `2^24`. -/
theorem roundedSignificand_le (p : Nat) : roundedSignificand p ≤ 2 ^ 24 := by
  have hq : p / 2 ^ excessBits p < 2 ^ 24 := (Nat.div_lt_iff_lt_mul (by positivity)).mpr (lt_steps p)
  unfold roundedSignificand
  dsimp only
  split
  · exact hq
  · exact hq.le

/-- The rounded number has a 24-bit significand, even if the rounded significand is. -/
theorem rne32_significand (p : Nat) :
    ∃ m j : Nat, m < 2 ^ 24 ∧ rne32 p = m * 2 ^ j ∧ (Even (roundedSignificand p) → Even m) := by
  obtain hlt | heq := (roundedSignificand_le p).lt_or_eq
  · exact ⟨_, _, hlt, rne32_eq p, id⟩
  · refine ⟨2 ^ 23, excessBits p + 1, by norm_num, ?_, fun _ => by decide⟩
    rw [rne32_eq, heq]
    ring

theorem rne32_isBinary32Units (p : Nat) : IsBinary32Units (rne32 p) := by
  obtain ⟨m, j, hm, heq, _⟩ := rne32_significand p
  exact ⟨m, j, hm, heq⟩

/-- Rounding keeps the order, because each result is nearest to its own number. -/
theorem rne32_mono {p q : Nat} (h : p ≤ q) : rne32 p ≤ rne32 q := by
  by_contra hlt
  obtain ⟨hp, _⟩ := rne32_nearest p (rne32_isBinary32Units q)
  obtain ⟨hq, _⟩ := rne32_nearest q (rne32_isBinary32Units p)
  obtain rfl | hne := h.eq_or_lt
  · exact hlt le_rfl
  · grind

/-! ### Rounded numbers as values -/

theorem units_value (m j : Nat) : ((m * 2 ^ j : ℕ) : ℚ) / 2 ^ 149 = m * 2 ^ ((j : ℤ) - 149) := by
  rw [zpow_sub₀ two_ne_zero, zpow_natCast]
  push_cast
  rw [mul_div_assoc]
  norm_cast

theorem isBinary32_of_units {y : Nat} (h : IsBinary32Units y) : IsBinary32 ((y : ℚ) / 2 ^ 149) := by
  obtain ⟨m, j, hm, rfl⟩ := h
  exact ⟨m, j - 149, hm, by omega, units_value m j⟩

theorem units_of_isBinary32 {x : ℚ} (h : IsBinary32 x) : ∃ y, IsBinary32Units y ∧ x = (y : ℚ) / 2 ^ 149 := by
  obtain ⟨m, e, hm, he, rfl⟩ := h
  obtain ⟨j, hj⟩ := Int.eq_ofNat_of_zero_le (show 0 ≤ e + 149 by omega)
  refine ⟨m * 2 ^ j, ⟨m, j, hm, rfl⟩, ?_⟩
  rw [units_value, ← hj, add_sub_cancel_right]

/-- The distance of two numbers of units. -/
theorem units_distance (y n : Nat) : |(y : ℚ) / 2 ^ 149 - (n : ℚ) / 2 ^ 149| = ((|(y : ℤ) - n| : ℤ) : ℚ) / 2 ^ 149 := by
  rw [← sub_div, abs_div, abs_of_pos (by positivity : (0 : ℚ) < 2 ^ 149)]
  push_cast
  rfl

theorem units_distance_le {y z n : Nat} (h : |(y : ℤ) - n| ≤ |(z : ℤ) - n|) :
    |(y : ℚ) / 2 ^ 149 - (n : ℚ) / 2 ^ 149| ≤ |(z : ℚ) / 2 ^ 149 - (n : ℚ) / 2 ^ 149| := by
  rw [units_distance, units_distance]
  exact div_le_div_of_nonneg_right (by exact_mod_cast h) (by positivity)

theorem units_distance_inj {y z n : Nat}
    (h : |(y : ℚ) / 2 ^ 149 - (n : ℚ) / 2 ^ 149| = |(z : ℚ) / 2 ^ 149 - (n : ℚ) / 2 ^ 149|) :
    |(y : ℤ) - n| = |(z : ℤ) - n| := by
  rw [units_distance, units_distance, div_left_inj' (by positivity)] at h
  exact_mod_cast h

theorem nearestEven_rne32 (n : Nat) : NearestEven ((n : ℚ) / 2 ^ 149) ((rne32 n : ℚ) / 2 ^ 149) := by
  refine ⟨isBinary32_of_units (rne32_isBinary32Units n), fun x hx => ?_, fun ⟨x, hx, hne, hdist⟩ => ?_⟩
  · obtain ⟨y, hy, rfl⟩ := units_of_isBinary32 hx
    exact units_distance_le (rne32_nearest n hy).1
  · obtain ⟨y, hy, rfl⟩ := units_of_isBinary32 hx
    have heven : Even (roundedSignificand n) :=
      (rne32_nearest n hy).2 (fun h => hne (by rw [h])) (units_distance_inj hdist)
    obtain ⟨m, j, hm, heq, hm_even⟩ := rne32_significand n
    exact ⟨m, j - 149, hm_even heven, hm, by omega, by rw [heq, units_value]⟩

/-- `roundUnits` is `floor(p + 1/2)` of the value (spec/40_strip_ops.md R101). -/
theorem roundUnits_eq_floor (p : Nat) : (roundUnits p : ℤ) = ⌊(p : ℚ) / 2 ^ 149 + 1 / 2⌋ := by
  have hone : (2 : ℚ) ^ 149 = (unitsOfOne : ℕ) := by
    rw [unitsOfOne, Nat.cast_pow, Nat.cast_ofNat]
  have hpos : ((unitsOfOne : ℕ) : ℚ) ≠ 0 := by
    rw [← hone]
    positivity
  have hfrac : (p : ℚ) / 2 ^ 149 + 1 / 2 = ((2 * p + unitsOfOne : ℕ) : ℚ) / (2 * unitsOfOne : ℕ) := by
    rw [hone]
    push_cast
    field_simp
  rw [hfrac, Rat.floor_natCast_div_natCast]
  rfl

/-! ### The obligations -/

/-- A value in range is that of some units, which `quantize` rounds. -/
theorem quantize_of_value {b : Binary32} {v : ℚ} (hv : binVal b = some v) (h0 : 0 ≤ v) (h1 : v ≤ 1) :
    ∃ u : Nat, v = (u : ℚ) / 2 ^ 149 ∧ contractUnits b = some u ∧ ∀ mode, ∃ q : Byte, quantize mode b = some q ∧
      q.toNat ≤ 31 ∧ q.toNat = quantizeUnits mode u := by
  obtain ⟨u, hu⟩ := contractUnits_of_inContract ⟨v, hv, h0, h1⟩
  refine ⟨u, Option.some.inj (hv.symm.trans (binVal_of_contractUnits hu)), hu, fun mode => ?_⟩
  obtain ⟨q, hq⟩ := quantize_of_inContract mode ⟨v, hv, h0, h1⟩
  obtain ⟨u', hu', hval⟩ := quantize_toNat hq
  obtain rfl : u = u' := Option.some.inj (hu.symm.trans hu')
  exact ⟨q, hq, quantize_le hq, hval⟩

/-- Settles O24: in units the product is exact, and `rne32` is the nearest binary32 number. -/
theorem quantizeIsRoundedProduct : Obligations.QuantizeIsRoundedProduct := by
  intro b
  refine ⟨fun h mode => (quantize_eq_none_iff mode b).mpr h, fun v hv h0 h1 => ?_⟩
  obtain ⟨u, rfl, _, hquant⟩ := quantize_of_value hv h0 h1
  have hprod : 31 * ((u : ℚ) / 2 ^ 149) = ((31 * u : ℕ) : ℚ) / 2 ^ 149 := by
    push_cast
    ring
  rw [hprod]
  constructor
  · obtain ⟨q, hq, hle, hval⟩ := hquant .exact
    refine ⟨q, hq, hle, ?_⟩
    rw [hval]
    exact roundUnits_eq_floor (31 * u)
  · obtain ⟨q, hq, hle, hval⟩ := hquant .binary32
    refine ⟨q, hq, hle, _, nearestEven_rne32 (31 * u), ?_⟩
    rw [hval]
    exact roundUnits_eq_floor (rne32 (31 * u))

theorem roundUnits_mono {p q : Nat} (h : p ≤ q) : roundUnits p ≤ roundUnits q :=
  Nat.div_le_div_right (by omega)

theorem quantizeUnits_mono (mode : QuantMode) {u v : Nat} (h : u ≤ v) : quantizeUnits mode u ≤ quantizeUnits mode v := by
  cases mode with
  | exact => exact roundUnits_mono (by omega)
  | binary32 => exact roundUnits_mono (rne32_mono (by omega))

theorem quantize_mono {mode : QuantMode} {b c : Binary32} {x y : ℚ} {p q : Byte} (hx : binVal b = some x)
    (hy : binVal c = some y) (hle : x ≤ y) (hp : quantize mode b = some p) (hq : quantize mode c = some q) :
    p.toNat ≤ q.toNat := by
  obtain ⟨u, hu, hpu⟩ := quantize_toNat hp
  obtain ⟨v, hv, hqv⟩ := quantize_toNat hq
  obtain rfl := Option.some.inj (hx.symm.trans (binVal_of_contractUnits hu))
  obtain rfl := Option.some.inj (hy.symm.trans (binVal_of_contractUnits hv))
  rw [hpu, hqv]
  refine quantizeUnits_mono mode ?_
  rw [div_le_div_iff_of_pos_right (by positivity)] at hle
  exact_mod_cast hle

/-- The pattern of `n / 32`: with `n` of `l + 1` bits, exponent field `122 + l`, and the fraction the bits below the
leading one. -/
def thirtySeconds (n : Nat) : Binary32 :=
  if n = 0 then 0 else BitVec.ofNat 32 ((121 + n.log2) * 2 ^ 23 + n * 2 ^ (23 - n.log2))

/-- Every brightness is that of `k / 32`, or of `(k + 1) / 32` in the upper half. -/
theorem quantize_thirtySeconds (mode : QuantMode) : ∀ k < 32,
    quantize mode (thirtySeconds (if k < 16 then k else k + 1)) = some (BitVec.ofNat 8 k) := by
  cases mode <;> decide

/-- Halfway between two integers, 31 times a number of units up to 1 is 31 halves. -/
theorem units_of_tie {u : Nat} {k : ℤ} (hle : u ≤ unitsOfOne) (h : 31 * ((u : ℚ) / 2 ^ 149) = k + 1 / 2) :
    u = 2 ^ 148 := by
  have hscaled : (31 : ℤ) * u = (2 * k + 1) * (2 ^ 148 : ℕ) := by
    rw [mul_div_assoc', div_eq_iff (by positivity)] at h
    have hq : (31 : ℚ) * u = (2 * k + 1) * (2 ^ 148 : ℕ) := by
      rw [h]
      push_cast
      ring
    exact_mod_cast hq
  have hle' : u ≤ 2 * 2 ^ 148 := hle
  have hcop : IsCoprime (31 : ℤ) (2 ^ 148 : ℕ) := by
    rw [Nat.cast_pow]
    exact IsCoprime.pow_right (by norm_num)
  have hpos : 0 < 2 ^ 148 := by positivity
  generalize 2 ^ 148 = t at *
  obtain ⟨c, hc⟩ : (31 : ℤ) ∣ 2 * k + 1 := hcop.dvd_of_dvd_mul_right ⟨u, hscaled.symm⟩
  rw [hc, mul_assoc] at hscaled
  have hu : (u : ℤ) = c * t := mul_left_cancel₀ (by norm_num) hscaled
  have hc_pos : 0 ≤ c := by
    by_contra hneg
    nlinarith
  have hc_le : c ≤ 2 := by
    by_contra hgt
    nlinarith
  obtain rfl : c = 1 := by omega
  omega

/-- The tie in contract is 0.5. -/
theorem pattern_of_tie {b : Binary32} (h : contractUnits b = some (2 ^ 148)) : b = 0x3F000000 := by
  by_cases hsign : b.toNat < 2 ^ 31
  · rw [contractUnits_of_lt hsign] at h
    have hunits : magnitudeUnits b.toNat = magnitudeUnits 0x3F000000 := by
      split at h
      · rw [Option.some.inj h]
        decide
      · cases h
    exact BitVec.eq_of_toNat_eq (magnitudeUnits_strictMono.injective hunits)
  · rw [contractUnits_of_ge (by omega)] at h
    split at h <;> simp at h

/-- Settles O25: rounding is monotone, `k / 32` reaches every value, and units determine the one tie. -/
theorem quantizeProperties : Obligations.QuantizeProperties := by
  refine ⟨fun mode => ?_, fun mode b c x y p q => quantize_mono, fun mode k hk => ⟨_, quantize_thirtySeconds mode k (by omega)⟩,
    fun b v hv h0 h1 k hk => ?_, by decide⟩
  · cases mode <;> decide
  · obtain ⟨u, rfl, hu, _⟩ := quantize_of_value hv h0 h1
    rw [units_of_tie (contractUnits_le hu) hk] at hu
    exact pattern_of_tie hu

/-- Settles O26: each of the sixteen inputs is evaluated in both modes. -/
theorem modesDifferOnListedInputs : Obligations.ModesDifferOnListedInputs := by
  unfold Obligations.ModesDifferOnListedInputs
  decide

end Sys2Proof.Machine
end

section
/-! PROOFS. BrightnessOutOfRange (spec/60_exceptions.md R205): the first check of the three commands with a brightness, and of
no other. -/

namespace Sys2Proof.Machine

open Sys2Proof.Stated

theorem withBrightness_outOfRange {b : Binary32} (body : Byte → State → Result) (s : State) (h : ¬ InContract b) :
    withBrightness b body s = raise (.brightnessOutOfRange b) s := by
  rw [withBrightness, (quantize_eq_none_iff s.cfg.quantMode b).mpr h]

/-- The three commands with a brightness operand check it before anything of their own. -/
theorem exec_brightnessOutOfRange {i : Instr} {s : State} {bright : Binary32} (hs : Accepting s)
    (hi : brightnessOf i = some bright) (h : ¬ InContract bright) :
    exec i s = .next (s.withFault (.brightnessOutOfRange bright)) := by
  rw [exec_accepting i hs]
  cases i with
  | setPixel index r g b bright' =>
    obtain rfl := Option.some.inj hi
    exact withBrightness_outOfRange _ s h
  | setAll r g b bright' =>
    obtain rfl := Option.some.inj hi
    rw [bodyOf]
    exact withBrightness_outOfRange _ s h
  | setBrightness bright' =>
    obtain rfl := Option.some.inj hi
    rw [bodyOf]
    exact withBrightness_outOfRange _ s h
  | init => cases hi
  | clear => cases hi
  | showStrip => cases hi
  | shutdown => cases hi

/-- A command past its gate that leaves this fault has the operand and found it out of range. -/
theorem did_brightnessOutOfRange {i : Instr} {s t : State} {bright : Binary32} (h : Did i s t) (hs : s.fault = none)
    (ht : t.fault = some (.brightnessOutOfRange bright)) : brightnessOf i = some bright ∧ ¬ InContract bright := by
  have hbad : ∀ {b : Binary32}, quantize s.cfg.quantMode b = none →
      (s.withFault (.brightnessOutOfRange b)).fault = some (.brightnessOutOfRange bright) →
      some b = some bright ∧ ¬ InContract bright := by
    intro b hb hfault
    obtain rfl : b = bright := by simpa using hfault
    exact ⟨rfl, (quantize_eq_none_iff _ _).mp hb⟩
  cases i with
  | setPixel index r g b bright' =>
    obtain ⟨_, _, _, rfl⟩ | ⟨_, _, _, rfl⟩ | ⟨hq, rfl⟩ := h
    · simp [hs] at ht
    · simp at ht
    · exact hbad hq ht
  | setAll r g b bright' =>
    obtain ⟨_, _, rfl⟩ | ⟨hq, rfl⟩ := h
    · simp [hs] at ht
    · exact hbad hq ht
  | setBrightness bright' =>
    obtain ⟨_, _, rfl⟩ | ⟨hq, rfl⟩ := h
    · simp [hs] at ht
    · exact hbad hq ht
  | init =>
    obtain rfl := h
    simp [withLines_fault _ (reply_fault .ok), hs] at ht
  | clear =>
    obtain rfl := h
    simp [hs] at ht
  | showStrip =>
    obtain rfl := h
    simp [withLines_fault _ (beginTransmit_fault .showing), hs] at ht
  | shutdown => obtain ⟨_, rfl⟩ | ⟨_, rfl⟩ := h <;> simp [hs] at ht

/-- Settles O27: the check is the first of the three commands, and no other raises this fault. -/
theorem brightnessOutOfRangeIsRecorded : Obligations.BrightnessOutOfRangeIsRecorded := by
  refine ⟨fun s bright hs h => ⟨fun _ _ _ _ => exec_brightnessOutOfRange hs rfl h,
    fun _ _ _ => exec_brightnessOutOfRange hs rfl h, exec_brightnessOutOfRange hs rfl h, rfl⟩,
    fun i s t bright h ht => ?_, ?_⟩
  · obtain ⟨hf, _, ⟨_, rfl⟩ | ⟨_, hdid⟩⟩ := exec_next h
    · simp at ht
    · exact did_brightnessOutOfRange hdid hf ht
  · rw [← quantize_eq_none_iff .exact]
    decide

end Sys2Proof.Machine
end

section
/-! PROOFS. SET_ALL (spec/40_strip_ops.md section 3), the device commands' own steps (spec/41_device_ops.md), and the order
of the checks (spec/60_exceptions.md R204, R208). -/

namespace Sys2Proof.Machine

open Sys2Proof.Stated

/-! ### SET_ALL -/

theorem exec_setAll_ok {s : State} {bright : Binary32} {q : Byte} (r g b : Byte) (hs : Accepting s)
    (hq : quantize s.cfg.quantMode bright = some q) :
    exec (.setAll r g b bright) s = .next (reply .ok (s.setBuf (memFill s.buf ⟨r, g, b, q⟩))) := by
  rw [exec_accepting _ hs, bodyOf, withBrightness_of_quantize _ hq]

/-- Settles O30: filling maps every record to the one given. -/
theorem setAllWritesEveryRecord : Obligations.SetAllWritesEveryRecord := by
  intro s r g b bright q hs hq
  refine ⟨memFill s.buf ⟨r, g, b, q⟩, exec_setAll_ok r g b hs hq, memFill_length _ _, fun k hk => ?_⟩
  obtain ⟨p, hp⟩ := Option.isSome_iff_exists.mp (memRead_isSome hk)
  rw [memRead_memFill, hp, Option.map_some]

/-- The same pixel written at each of some indices in turn. -/
def memWriteAll (m : Memory) (p : Pixel) (is : List Nat) : Memory := is.foldl (fun m i => memWrite m i p) m

@[simp] theorem memWriteAll_length (m : Memory) (p : Pixel) (is : List Nat) :
    (memWriteAll m p is).length = m.length := by
  induction is generalizing m with
  | nil => rfl
  | cons i is ih => exact (ih (memWrite m i p)).trans (memWrite_length m i p)

/-- Writing at the first `k` indices in turn writes those records and no other. -/
theorem memRead_memWriteAll_range {m : Memory} {k : Nat} (hk : k ≤ m.length) (p : Pixel) (i : Nat) :
    memRead (memWriteAll m p (List.range k)) i = if i < k then some p else memRead m i := by
  induction k with
  | zero => rfl
  | succ k ih =>
    have hlast : memWriteAll m p (List.range (k + 1)) = memWrite (memWriteAll m p (List.range k)) k p := by
      simp [memWriteAll, List.range_succ]
    rw [hlast]
    by_cases hi : i = k
    · subst hi
      rw [memRead_memWrite_same (by simpa using hk), if_pos (Nat.lt_succ_self i)]
    · rw [memRead_memWrite_other _ hi, ih (by omega)]
      simp only [show i < k + 1 ↔ i < k by omega]

theorem memWriteAll_range (m : Memory) (p : Pixel) : memWriteAll m p (List.range m.length) = memFill m p := by
  refine List.ext_getElem? fun i => ?_
  refine (memRead_memWriteAll_range le_rfl p i).trans (Eq.symm ((memRead_memFill m p i).trans ?_))
  by_cases hi : i < m.length
  · obtain ⟨px, hpx⟩ := Option.isSome_iff_exists.mp (memRead_isSome hi)
    rw [hpx, if_pos hi, Option.map_some]
  · rw [if_neg hi, memRead_eq_none (by omega), Option.map_none]

/-- A SET_PIXEL in range goes on to the rest. -/
theorem setPixels_cons_ok {r g b : Byte} {bright : Binary32} {q : Byte} {i : Nat} {s : State} (is : List Nat)
    (hs : Accepting s) (hq : quantize s.cfg.quantMode bright = some q) (hi : i < s.buf.length)
    (hlen : s.buf.length ≤ 2 ^ 32) :
    setPixels r g b bright (i :: is) s =
      setPixels r g b bright is (reply .ok (s.setBuf (memWrite s.buf i ⟨r, g, b, q⟩))) := by
  have hindex : (BitVec.ofNat 32 i).toNat = i := by
    rw [BitVec.toNat_ofNat]
    exact Nat.mod_eq_of_lt (by omega)
  have hexec := exec_setPixel_ok (index := BitVec.ofNat 32 i) r g b hs hq (by rwa [hindex])
  rw [hindex] at hexec
  obtain ⟨hfault, _, _⟩ := hs
  have hhalted : (reply .ok (s.setBuf (memWrite s.buf i ⟨r, g, b, q⟩))).halted = false :=
    (State.halted_eq_false _).mpr hfault
  rw [setPixels, hexec]
  simp only [hhalted, Bool.false_eq_true, if_false]

/-- SET_PIXEL at each of some indices in range writes each of them, and gives an Ok for each. -/
theorem setPixels_ok {r g b : Byte} {bright : Binary32} {q : Byte} {is : List Nat} {s : State} (hs : Accepting s)
    (hq : quantize s.cfg.quantMode bright = some q) (his : ∀ i ∈ is, i < s.buf.length) (hlen : s.buf.length ≤ 2 ^ 32) :
    setPixels r g b bright is s = .next { s with
      buf := memWriteAll s.buf ⟨r, g, b, q⟩ is, replies := s.replies ++ List.replicate is.length .ok } := by
  induction is generalizing s with
  | nil => simp [setPixels, memWriteAll]
  | cons i is ih =>
    have hrest := ih (s := reply .ok (s.setBuf (memWrite s.buf i ⟨r, g, b, q⟩))) hs hq
      (fun k hk => by simpa using his k (List.mem_cons_of_mem _ hk)) (by simpa using hlen)
    rw [setPixels_cons_ok is hs hq (his i List.mem_cons_self) hlen, hrest]
    simp [memWriteAll, List.replicate_succ, State.setBuf, reply]

/-- Where the brightness is out of contract the first SET_PIXEL faults and the rest are not tried. -/
theorem setPixels_outOfRange {bright : Binary32} {s : State} (r g b : Byte) (hs : Accepting s)
    (h : ¬ InContract bright) (i : Nat) (is : List Nat) :
    setPixels r g b bright (i :: is) s = .next (s.withFault (.brightnessOutOfRange bright)) := by
  rw [setPixels, exec_brightnessOutOfRange hs rfl h]
  rfl

/-- Settles O31: out of contract both record the same fault at once; in contract the writes at all indices in turn are the
fill. -/
theorem setAllIsSetPixelEverywhere : Obligations.SetAllIsSetPixelEverywhere := by
  intro s r g b bright hs hone hlen
  by_cases hb : InContract bright
  · obtain ⟨q, hq⟩ := quantize_of_inContract s.cfg.quantMode hb
    refine ⟨_, _, exec_setAll_ok r g b hs hq, setPixels_ok hs hq (fun i => List.mem_range.mp) hlen, ?_⟩
    rw [memWriteAll_range]
    rfl
  · obtain ⟨n, hn⟩ := Nat.exists_eq_add_of_le' hone
    refine ⟨_, s.withFault (.brightnessOutOfRange bright), exec_brightnessOutOfRange hs rfl hb, ?_, rfl⟩
    rw [hn, List.range_succ_eq_map]
    exact setPixels_outOfRange r g b hs hb 0 _

/-- Settles O32: the check comes before the fill, which has nothing to fill. -/
theorem emptySetAllChecksBrightness : Obligations.EmptySetAllChecksBrightness := by
  intro s r g b bright hs hbuf
  refine ⟨fun hb => exec_brightnessOutOfRange hs rfl hb, fun hb => ?_, by rw [hbuf]; rfl⟩
  obtain ⟨q, hq⟩ := quantize_of_inContract s.cfg.quantMode hb
  rw [exec_setAll_ok r g b hs hq]
  simp [reply, State.setBuf, memFill, hbuf]

/-! ### INIT and SHOW -/

theorem withLines_of_got {s : State} (k : State → State) (hgot : s.initialized = true ∨ nextAnswer s = .success) :
    withLines k s = k (settled s) := by
  obtain ⟨_, heq⟩ | ⟨hinit, e, hans, _⟩ := withLines_settled s k
  · exact heq
  · simp [hinit, hans] at hgot

/-- SHOW with the lines held or to be had begins its transmission. -/
theorem exec_show_begins {s : State} (hs : Accepting s) (hgot : s.initialized = true ∨ nextAnswer s = .success) :
    exec .showStrip s = .next (beginTransmit .showing (settled s)) := by
  rw [exec_accepting _ hs]
  exact congrArg Host.Outcome.next (withLines_of_got _ hgot)

theorem exec_init_ok {s : State} (hs : Accepting s) (hgot : s.initialized = true ∨ nextAnswer s = .success) :
    exec .init s = .next (reply .ok (settled s)) := by
  rw [exec_accepting _ hs]
  exact congrArg Host.Outcome.next (withLines_of_got _ hgot)

/-- Settles O36: the setup's three outcomes. -/
theorem initAcquiresTheLines : Obligations.InitAcquiresTheLines := by
  intro s hs
  refine ⟨fun hinit => ?_, fun hinit hans => ?_, fun e hinit hans => exec_acquisition_failure (.inl rfl) hs hinit hans⟩
  · rw [exec_init_ok hs (.inl hinit), settled_of_held hinit]
    rfl
  · rw [exec_init_ok hs (.inr hans), settled_of_unheld hinit]
    rfl

/-- Settles O37: a failed setup ends SHOW with the platform's error alone. -/
theorem failedShowChangesNothing : Obligations.FailedShowChangesNothing := by
  intro s e hs hinit hans
  exact ⟨_, exec_acquisition_failure (.inr rfl) hs hinit hans, rfl, rfl, rfl, hinit, rfl, rfl, rfl, rfl⟩

/-- Settles O38: the transmission begins from the state the setup leaves. -/
theorem showBeginsTransmission : Obligations.ShowBeginsTransmission := fun _ => exec_show_begins

/-! ### SHUTDOWN -/

theorem exec_shutdown_held {s : State} (hs : Accepting s) (hinit : s.initialized = true) :
    exec .shutdown s = .next (beginTransmit .shuttingDown (s.setBuf (memBlank s.buf))) := by
  rw [exec_accepting _ hs]
  exact congrArg Host.Outcome.next (if_pos hinit)

theorem exec_shutdown_unheld {s : State} (hs : Accepting s) (hinit : s.initialized = false) :
    exec .shutdown s = .next (retire (s.setBuf (memBlank s.buf))) := by
  rw [exec_accepting _ hs]
  exact congrArg Host.Outcome.next (if_neg (by simp [hinit]))

/-- Settles O40: blanking keeps each brightness, and the flag decides between the transmission and the retirement. -/
theorem shutdownBlanksTheBuffer : Obligations.ShutdownBlanksTheBuffer := by
  intro s hs
  refine ⟨memBlank s.buf, memBlank_length _, fun _ _ => memRead_memBlank_some, exec_shutdown_held hs, fun hinit => ?_⟩
  rw [exec_shutdown_unheld hs hinit]
  simp [retire, release, reply, State.setBuf, Levels.unknown, hinit]

/-! ### The order of the checks -/

theorem exec_released (i : Instr) {s : State} (hf : s.fault = none) (hp : s.pos = .idle) (hr : s.released = true) :
    exec i s = .next (s.withFault (.useAfterShutdown (opcodeOf i))) := by
  rw [exec_eq_command, command_released _ _ hf hp hr, raise]

/-- Settles O42: the gate of every command checks it. -/
theorem useAfterShutdownIsRecorded : Obligations.UseAfterShutdownIsRecorded :=
  fun i _ hf hp hr => ⟨exec_released i hf hp hr, rfl⟩

/-- Settles O43: the decoder comes before the gate, the gate before the operands, and the brightness before the index. -/
theorem firstFailingCheckIsReported : Obligations.FirstFailingCheckIsReported := by
  refine ⟨fun s w rest hf hp hport hw => ?_, fun s w rest i hf hp hr hport hd => ?_,
    fun s index r g b bright hs hb => exec_brightnessOutOfRange hs rfl hb,
    fun s index r g b bright hs hb hi => exec_setPixel_indexOutOfRange r g b hs hb hi⟩
  · obtain ⟨_, _, hillegal, _, _⟩ := legalWordsAreTableRows
    obtain ⟨why, hd⟩ := hillegal w hw
    exact step_illegal hf hp hport hd
  · rw [step_cmd hf hp hport hd]
    exact exec_released (s := took s rest) i hf hp hr

end Sys2Proof.Machine
end

section
/-! PROOFS. The pin writes of one transaction (spec/42_serializer.md section 5): how many of each kind there are, and
after which writes the data line is written. -/

namespace Sys2Proof.Machine

open Sys2Proof.Stated

/-! ### Counts -/

section
variable (P : PinEvent → Bool)

theorem countP_pulses (n : Nat) : (pulses n).countP P = n * pulse.countP P := by
  simp [pulses, List.countP_flatten]

/-- Where every pixel's payload has the same number of them, so many times that. -/
theorem countP_pixels {c : Nat} (h : ∀ p, (sendPixel p).countP P = c) (m : Memory) :
    (m.map sendPixel).flatten.countP P = m.length * c := by
  induction m with
  | nil => simp
  | cons p m ih =>
    rw [List.map_cons, List.flatten_cons, List.countP_append, h, ih, List.length_cons]
    ring

/-- The events of a transaction, counted part by part. -/
theorem countP_transmitEvents {c : Nat} (h : ∀ p, (sendPixel p).countP P = c) (efp : Nat) (m : Memory) :
    (transmitEvents efp m).countP P = [(.cs, false), (.dat, false), (.dat, false), (.cs, true)].countP P +
      (32 + efp) * pulse.countP P + m.length * c := by
  simp only [transmitEvents, startFrame, endFrame, List.countP_append, List.countP_cons, List.countP_nil,
    countP_pulses, countP_pixels P h, Config.startFramePulses]
  ring

end

theorem length_transmitEvents (efp : Nat) (m : Memory) :
    (transmitEvents efp m).length = 68 + 2 * efp + 96 * m.length := by
  rw [← List.countP_true, countP_transmitEvents _ (fun p => rfl) efp m]
  simp only [pulse, List.countP_true, List.length_cons, List.length_nil]
  ring

/-- The chip-select writes are the first and the last. -/
theorem filter_cs_transmitEvents (efp : Nat) (m : Memory) :
    (transmitEvents efp m).filter (fun e => e.1 == .cs) = [(.cs, false), (.cs, true)] := by
  have hframed : (framedEvents efp m).filter (fun e => e.1 == .cs) = [] :=
    List.filter_eq_nil_iff.mpr fun e he => by simpa using mem_framedEvents he
  simp [transmitEvents_framed, hframed]

/-- Settles O47: each kind of write is counted part by part. -/
theorem transactionEventCounts : Obligations.TransactionEventCounts := by
  intro m
  have hrise : (transmitEvents 36 m).count (.clk, true) = _ := countP_transmitEvents _ (fun p => rfl) 36 m
  have hfall : (transmitEvents 36 m).count (.clk, false) = _ := countP_transmitEvents _ (fun p => rfl) 36 m
  have hdat := countP_transmitEvents (fun e => e.1 == .dat) (fun p => rfl) 36 m
  have hlast : (transmitEvents 36 m).getLast? = some (.cs, true) := by
    rw [transmitEvents_framed]
    exact List.getLast?_concat
  refine ⟨length_transmitEvents 36 m, hrise.trans ?_, hfall.trans ?_, hdat.trans ?_, filter_cs_transmitEvents 36 m, rfl,
    hlast⟩
  · simp [pulse, mul_comm]
  · simp [pulse, mul_comm]
  · simp [pulse, mul_comm]

/-! ### Data writes come after clock-low writes -/

/-- A data write follows a clock-low write. -/
def AfterClockLow (e e' : PinEvent) : Prop := e'.1 = .dat → e = (.clk, false)

/-- Pin writes in which each data write but a first one follows a clock-low write, and which leave the clock low. -/
def ClockedLow (es : List PinEvent) : Prop := es.IsChain AfterClockLow ∧ es.getLast? = some (.clk, false)

/-- After a list that leaves the clock low any write may come. -/
theorem ClockedLow.isChain_append {es es' : List PinEvent} (h : ClockedLow es) (h' : es'.IsChain AfterClockLow) :
    (es ++ es').IsChain AfterClockLow :=
  List.isChain_append.mpr ⟨h.1, h', fun _ he _ _ _ => Option.some.inj (he.symm.trans h.2)⟩

theorem ClockedLow.append {es es' : List PinEvent} (h : ClockedLow es) (h' : ClockedLow es') :
    ClockedLow (es ++ es') :=
  ⟨h.isChain_append h'.1, by rw [List.getLast?_append, h'.2, Option.some_or]⟩

theorem ClockedLow.append_blocks {α : Type} {block : α → List PinEvent} (hblock : ∀ x, ClockedLow (block x))
    {es : List PinEvent} (h : ClockedLow es) (xs : List α) : ClockedLow (es ++ (xs.map block).flatten) := by
  induction xs generalizing es with
  | nil => simpa using h
  | cons x xs ih => simpa using ih (h.append (hblock x))

theorem clockedLow_pulse : ClockedLow pulse := ⟨by simp [pulse, AfterClockLow], rfl⟩

theorem clockedLow_sendBit (v : Byte) (k : Nat) : ClockedLow (sendBit v k) :=
  ⟨by simp [sendBit, pulse, AfterClockLow], rfl⟩

theorem clockedLow_sendByte (v : Byte) : ClockedLow (sendByte v) :=
  (clockedLow_sendBit v 7).append_blocks (clockedLow_sendBit v) [6, 5, 4, 3, 2, 1, 0]

theorem clockedLow_sendPixel (p : Pixel) : ClockedLow (sendPixel p) :=
  (clockedLow_sendByte _).append_blocks clockedLow_sendByte [p.blue, p.green, p.red]

theorem clockedLow_startFrame : ClockedLow startFrame :=
  ClockedLow.append_blocks (fun _ : Nat => clockedLow_pulse) (es := (.dat, false) :: pulse)
    ⟨by simp [pulse, AfterClockLow], rfl⟩ (List.range 31)

theorem isChain_of_noData (e : PinEvent) {es : List PinEvent} (h : ∀ x ∈ es, x.1 ≠ .dat) :
    (e :: es).IsChain AfterClockLow := by
  induction es generalizing e with
  | nil => exact .singleton e
  | cons x es ih =>
    exact List.isChain_cons_cons.mpr
      ⟨fun hx => absurd hx (h x List.mem_cons_self), ih x fun y hy => h y (List.mem_cons_of_mem _ hy)⟩

/-- After chip-select low each data write but the first follows a clock-low write. -/
theorem isChain_framedEvents (efp : Nat) (m : Memory) :
    (framedEvents efp m ++ [(Line.cs, true)]).IsChain AfterClockLow := by
  have hend : (endFrame efp ++ [(Line.cs, true)]).IsChain AfterClockLow := by
    refine isChain_of_noData _ fun x hx => ?_
    obtain hpulse | hcs := List.mem_append.mp hx
    · rw [mem_pulses hpulse]
      nofun
    · rw [List.mem_singleton.mp hcs]
      nofun
  rw [framedEvents, List.append_assoc]
  exact (clockedLow_startFrame.append_blocks clockedLow_sendPixel m).isChain_append hend

/-- Settles O50: the one data write with no write before it inside the frame is the start frame's. -/
theorem dataWrittenOnlyAfterClockLow : Obligations.DataWrittenOnlyAfterClockLow := by
  intro efp m pre post v h
  rw [transmitEvents_framed] at h
  cases pre with
  | nil => simp at h
  | cons e pre =>
    rw [List.cons_append, List.cons_append, List.cons.injEq] at h
    obtain ⟨rfl, hrest⟩ := h
    obtain rfl | ⟨pre, x, rfl⟩ := List.eq_nil_or_concat pre
    · have hfirst : some ((Line.dat, false) : PinEvent) = some (.dat, v) := congrArg List.head? hrest
      have hv : false = v := by simpa using hfirst
      exact .inl ⟨rfl, hv.symm⟩
    · have hchain := isChain_framedEvents efp m
      rw [hrest, List.concat_eq_append, List.append_assoc] at hchain
      obtain ⟨_, htail, _⟩ := List.isChain_append.mp hchain
      have hlow : x = (.clk, false) := (List.isChain_cons_cons.mp htail).1 rfl
      exact .inr (by rw [hlow, List.concat_eq_append, ← List.cons_append, List.getLast?_concat])

end Sys2Proof.Machine
end

section
/-! PROOFS. What a receiver samples of one transaction (spec/42_serializer.md R176), and the levels and the time floor at its
end. -/

namespace Sys2Proof.Machine

open Sys2Proof.Stated

theorem wireBits_append (reading : Bool) (l : Levels) (es es' : List PinEvent) :
    wireBits reading l (es ++ es') = wireBits reading l es ++ wireBits reading (es.foldl Levels.drive l) es' := by
  induction es generalizing l with
  | nil => rfl
  | cons e es ih =>
    simp only [List.cons_append, wireBits, List.foldl_cons, ih]
    split <;> rfl

/-- Chip-select and clock low, with that data level. -/
def clockedLevels (d : Option Bool) : Levels := ⟨d, some false, some false⟩

/-- From chip-select and clock low, the pin writes show a receiver those bits, and leave the two lines low. -/
def Sends (es : List PinEvent) (bits : List Bool) : Prop :=
  ∀ d, (∀ reading, wireBits reading (clockedLevels d) es = bits.map some) ∧
    ∃ d', es.foldl Levels.drive (clockedLevels d) = clockedLevels d'

theorem Sends.append {es es' : List PinEvent} {bits bits' : List Bool} (h : Sends es bits) (h' : Sends es' bits') :
    Sends (es ++ es') (bits ++ bits') := by
  intro d
  obtain ⟨hbits, d', hlevels⟩ := h d
  obtain ⟨hbits', hlevels'⟩ := h' d'
  refine ⟨fun reading => ?_, by rwa [List.foldl_append, hlevels]⟩
  rw [wireBits_append, hbits, hlevels, hbits', List.map_append]

theorem Sends.blocks {α : Type} {block : α → List PinEvent} {bits : α → List Bool} {xs : List α}
    (h : ∀ x ∈ xs, Sends (block x) (bits x)) : Sends (xs.map block).flatten (xs.map bits).flatten := by
  induction xs with
  | nil => exact fun d => ⟨fun _ => rfl, d, rfl⟩
  | cons x xs ih => exact (h x List.mem_cons_self).append (ih fun y hy => h y (List.mem_cons_of_mem _ hy))

theorem sends_sendBit (v : Byte) (k : Nat) : Sends (sendBit v k) [bit v k] :=
  fun _ => ⟨fun _ => rfl, some (bit v k), rfl⟩

theorem sends_sendByte (v : Byte) : Sends (sendByte v) (byteBits v) := by
  have hbits := Sends.blocks (xs := [7, 6, 5, 4, 3, 2, 1, 0]) fun k _ => sends_sendBit v k
  exact hbits

theorem sends_sendPixel (p : Pixel) : Sends (sendPixel p) ((frame p).map byteBits).flatten :=
  Sends.blocks fun v _ => sends_sendByte v

/-- A brightness in range makes the four bytes the LED frame's (spec/30_encoding.md R82). -/
theorem sends_ledFrame {p : Pixel} (h : p.brightness.toNat ≤ 31) : Sends (sendPixel p) (frameBits (ledFrame p)) := by
  rw [frameBits_eq_byteBits, ← frame_eq_bytesOfFrame h]
  exact sends_sendPixel p

/-- Pulses alone send the data level, once each. -/
theorem pulses_from_low (d : Bool) (n : Nat) :
    (∀ reading, wireBits reading (clockedLevels (some d)) (pulses n) = (List.replicate n d).map some) ∧
      (pulses n).foldl Levels.drive (clockedLevels (some d)) = clockedLevels (some d) := by
  induction n with
  | zero => exact ⟨fun _ => rfl, rfl⟩
  | succ n ih =>
    rw [pulses_succ]
    exact ⟨fun reading => congrArg (some d :: ·) (ih.1 reading), ih.2⟩

theorem endFrame_from_low (efp : Nat) (d : Option Bool) :
    (∀ reading, wireBits reading (clockedLevels d) (endFrame efp) = (List.replicate efp false).map some) ∧
      (endFrame efp).foldl Levels.drive (clockedLevels d) = clockedLevels (some false) :=
  pulses_from_low false efp

/-- The levels after the start frame, whatever they were. -/
theorem levels_startFrame (l : Levels) :
    ((.cs, false) :: startFrame).foldl Levels.drive l = clockedLevels (some false) := rfl

/-- The start frame shows 32 zeros, or 31 where the first clock write from an unknown level is read as no edge
(spec/70_reset_and_hazards.md R240). -/
theorem wireBits_startFrame {l : Levels} (hclk : l.clk ≠ some true) (reading : Bool) :
    wireBits reading l ((.cs, false) :: startFrame) =
      ((List.replicate 32 false).drop (if l.clk = none ∧ reading = false then 1 else 0)).map some := by
  obtain ⟨dat, clk, cs⟩ := l
  cases clk with
  | none => cases reading <;> rfl
  | some c =>
    cases c with
    | false => rfl
    | true => exact absurd rfl hclk

/-- The transaction, split where the clock is known to be low. -/
theorem transmitEvents_split (efp : Nat) (m : Memory) : transmitEvents efp m =
    ((.cs, false) :: startFrame) ++ ((m.map sendPixel).flatten ++ (endFrame efp ++ [(.cs, true)])) := by
  simp [transmitEvents]

/-- The wire bits of a transaction, for every buffer whose brightness is in range. -/
theorem wireBits_transmitEvents {m : Memory} {l : Levels} (hm : ∀ p ∈ m, p.brightness.toNat ≤ 31)
    (hclk : l.clk ≠ some true) (efp : Nat) (reading : Bool) :
    wireBits reading l (transmitEvents efp m) =
      ((expectedBits 32 efp m).drop (if l.clk = none ∧ reading = false then 1 else 0)).map some := by
  obtain ⟨hpixels, d, hlevels⟩ := Sends.blocks (fun p hp => sends_ledFrame (hm p hp)) (some false)
  obtain ⟨hend, hendLevels⟩ := endFrame_from_low efp d
  have hlast : wireBits reading (clockedLevels (some false)) [(.cs, true)] = [] := rfl
  have hdrop : (if l.clk = none ∧ reading = false then 1 else 0) ≤ (List.replicate 32 false).length := by
    split <;> decide
  rw [transmitEvents_split, wireBits_append, wireBits_startFrame hclk, levels_startFrame, wireBits_append, hpixels,
    hlevels, wireBits_append, hend, hendLevels, hlast, expectedBits, List.append_assoc,
    List.drop_append_of_le_length hdrop]
  simp only [List.map_append, List.append_nil]

theorem length_expectedBits (start efp : Nat) (m : Memory) :
    (expectedBits start efp m).length = start + 32 * m.length + efp := by
  have hframe : ∀ f : BitVec 32, (frameBits f).length = 32 := fun f => by simp [frameBits]
  simp [expectedBits, List.length_flatten, Function.comp_def, hframe, mul_comm, add_assoc]

/-- Settles O53: the pixels' payloads send their frames' bits, and only the first clock write can be read two ways. -/
theorem wireBitsOfTransaction : Obligations.WireBitsOfTransaction := by
  intro efp m l reading hm hclk
  obtain ⟨_, hbright⟩ := (Memory.wf_iff m).mp hm
  exact ⟨wireBits_transmitEvents hbright hclk efp reading, length_expectedBits 32 efp m⟩

/-- Settles O48: with no pixel nothing stands between the frames, and every pulse sends a zero. -/
theorem emptyStripTransmission : Obligations.EmptyStripTransmission := by
  refine ⟨rfl, length_transmitEvents 36 [], ?_⟩
  rw [wireBits_transmitEvents (by simp) (by simp) 36 false]
  rfl

/-! ### The levels at the end -/

/-- Whatever the levels were, a transaction leaves data and clock low and chip-select high. -/
theorem levels_transmitEvents (efp : Nat) (m : Memory) (l : Levels) :
    (transmitEvents efp m).foldl Levels.drive l = Levels.resting := by
  obtain ⟨_, d, hpixels⟩ := Sends.blocks (xs := m) (fun p _ => sends_sendPixel p) (some false)
  obtain ⟨_, hend⟩ := endFrame_from_low efp d
  rw [transmitEvents_split, List.foldl_append, levels_startFrame, List.foldl_append, hpixels, List.foldl_append, hend]
  rfl

theorem transmit_eq (s : State) : transmit s = { s with
    level := Levels.resting, trace := s.trace ++ transmitEvents s.cfg.endFramePulses s.buf } := by
  rw [transmit, pinWrites_eq, levels_transmitEvents]

/-- Settles O49: the end frame ends with the clock low, and the last write is chip-select's. -/
theorem levelsAfterTransaction : Obligations.LevelsAfterTransaction := by
  intro s
  refine ⟨by rw [transmit_eq]; rfl, by rw [transmit_eq],
    ((.cs, false) :: startFrame) ++ (s.buf.map sendPixel).flatten, ?_⟩
  rw [transmitEvents_split]
  simp [endFrame]

/-- Settles O55: one delay for each event, of which there are 140 and 96 for each pixel. -/
theorem transmissionTimeFloor : Obligations.TransmissionTimeFloor := by
  intro s hefp
  rw [transmit_eq, delayFloor, delayFloor, List.length_append, length_transmitEvents, hefp]
  ring

end Sys2Proof.Machine
end

section
/-! PROOFS. Runs of the sequencer: stepping from a position makes the pin writes that remain there, so SHOW and SHUTDOWN run
to completion (spec/42_serializer.md R175, spec/41_device_ops.md sections 3 and 4). -/

namespace Sys2Proof.Machine

open Sys2Proof.Stated

/-- From a position in range a step makes the first of the pin writes that remain, and comes to the others. -/
theorem step_remaining {s : State} (hf : s.fault = none) (hinit : s.initialized = true) (hp : s.pos ≠ .idle)
    (hwf : s.pos.wf s.cfg.endFramePulses s.buf.length = true) :
    ∃ e, remaining s.cfg.endFramePulses s.buf s.pos = e :: remaining s.cfg.endFramePulses s.buf
        (succ s.cfg.endFramePulses s.buf.length s.pos) ∧
      step s = .next (arrive (succ s.cfg.endFramePulses s.buf.length s.pos) (pinWrite e s)) := by
  obtain ⟨e, hw, hrem⟩ := remaining_step hp hwf
  exact ⟨e, hrem, (step_busy hf hp).trans (sequencerStep_write hinit hw)⟩

/-- The run of the sequencer over the pin writes that remain: away from Idle before the last of them, and with the last
its command ends. -/
theorem steps_remaining {s : State} (hf : s.fault = none) (hinit : s.initialized = true) (hp : s.pos ≠ .idle)
    (hwf : s.pos.wf s.cfg.endFramePulses s.buf.length = true) {es : List PinEvent}
    (hes : remaining s.cfg.endFramePulses s.buf s.pos = es) :
    (∀ k, k < es.length → ∃ u, steps k s = .next u ∧ u.pos ≠ .idle ∧ u.trace = s.trace ++ es.take k) ∧
      steps es.length s = .next (finishTransmit ((pinWrites es s).atPos .idle)) := by
  induction es generalizing s with
  | nil =>
    obtain ⟨e, hrem, _⟩ := step_remaining hf hinit hp hwf
    cases hrem.symm.trans hes
  | cons e es ih =>
    obtain ⟨e', hrem, hstep⟩ := step_remaining hf hinit hp hwf
    obtain ⟨rfl, hrest⟩ := List.cons.inj (hrem.symm.trans hes)
    by_cases hq : succ s.cfg.endFramePulses s.buf.length s.pos = .idle
    · rw [hq] at hstep hrest
      obtain rfl : [] = es := hrest
      refine ⟨fun k hk => ?_, ?_⟩
      · obtain rfl : k = 0 := by simpa using hk
        exact ⟨s, rfl, hp, by simp⟩
      · rw [List.length_singleton, steps_next hstep, arrive_idle]
        rfl
    · rw [arrive_moving hq] at hstep
      obtain ⟨hbefore, hend⟩ := ih (s := (pinWrite e' s).atPos (succ s.cfg.endFramePulses s.buf.length s.pos)) hf hinit
        hq (succ_wf hwf) hrest
      refine ⟨fun k hk => ?_, ?_⟩
      · cases k with
        | zero => exact ⟨s, rfl, hp, by simp⟩
        | succ k =>
          obtain ⟨u, hu, hpos, htrace⟩ := hbefore k (by simpa using hk)
          exact ⟨u, by rw [steps_next hstep, hu], hpos, by rw [htrace]; simp⟩
      · rw [List.length_cons, steps_next hstep, hend, pinWrites_eq, pinWrites_eq]
        simp [State.atPos, pinWrite, State.record]

/-- The run of a whole transmission. -/
theorem steps_transmit {s : State} (hf : s.fault = none) (hinit : s.initialized = true) (hp : s.pos = .csLow) :
    (∀ k, k < (transmitEvents s.cfg.endFramePulses s.buf).length → ∃ u, steps k s = .next u ∧ u.pos ≠ .idle ∧
      u.trace = s.trace ++ (transmitEvents s.cfg.endFramePulses s.buf).take k) ∧
    steps (transmitEvents s.cfg.endFramePulses s.buf).length s = .next (finishTransmit ((transmit s).atPos .idle)) :=
  steps_remaining hf hinit (by simp [hp]) (by rw [hp]; rfl) (by rw [hp, remaining_csLow])

@[simp] theorem finishTransmit_pos (s : State) : (finishTransmit s).pos = s.pos :=
  finishTransmit_field s State.pos rfl rfl

@[simp] theorem finishTransmit_trace (s : State) : (finishTransmit s).trace = s.trace :=
  finishTransmit_field s State.trace rfl rfl

/-- Settles O46: the writes that remain at the start are the transaction. -/
theorem sequencerPerformsTransmit : Obligations.SequencerPerformsTransmit := by
  intro s hf hinit hp
  obtain ⟨hbefore, hend⟩ := steps_transmit hf hinit hp
  refine ⟨hbefore, ⟨_, hend, ?_, ?_⟩, fun hefp => by rw [length_transmitEvents, hefp]⟩
  · rw [finishTransmit_pos, State.atPos_pos]
  · rw [finishTransmit_trace, State.atPos_trace, transmit_eq]

/-- The run of a transmission that a command has just begun. -/
theorem steps_beginTransmit {s : State} (hf : s.fault = none) (hinit : s.initialized = true) (r : Transmitter) :
    (∀ k, k < (transmitEvents s.cfg.endFramePulses s.buf).length →
      ∃ u, steps k (beginTransmit r s) = .next u ∧ u.pos ≠ .idle) ∧
    steps (transmitEvents s.cfg.endFramePulses s.buf).length (beginTransmit r s) =
      .next (finishTransmit ((transmit (beginTransmit r s)).atPos .idle)) := by
  have hrun := steps_transmit (s := beginTransmit r s) hf hinit rfl
  rw [beginTransmit_cfg, beginTransmit_buf] at hrun
  obtain ⟨hbefore, hend⟩ := hrun
  refine ⟨fun k hk => ?_, hend⟩
  obtain ⟨u, hu, hpos, _⟩ := hbefore k hk
  exact ⟨u, hu, hpos⟩

/-- Settles O39: SHOW begins from the settled state, and its end returns Ok. -/
theorem showRunsToCompletion : Obligations.ShowRunsToCompletion := by
  intro s hs hgot es
  have ⟨hfault, hpos, _⟩ := hs
  obtain ⟨hbefore, hend⟩ := steps_beginTransmit (s := settled s) (by simpa using hfault) (settled_initialized s) .showing
  rw [settled_cfg, settled_buf] at hbefore hend
  refine ⟨_, exec_show_begins hs hgot, hbefore, hend.trans (congrArg Host.Outcome.next ?_)⟩
  rw [transmit_eq]
  simp [es, finishTransmit, beginTransmit, State.atPos, State.withRunning, reply, Levels.resting, hpos]

/-- Settles O41: SHUTDOWN begins from the blanked buffer, and its end releases and retires. -/
theorem shutdownRunsToCompletion : Obligations.ShutdownRunsToCompletion := by
  intro s hs hinit m es
  have ⟨hfault, hpos, _⟩ := hs
  obtain ⟨hbefore, hend⟩ := steps_beginTransmit (s := s.setBuf m) hfault hinit .shuttingDown
  refine ⟨_, exec_shutdown_held hs hinit, hbefore, hend.trans (congrArg Host.Outcome.next ?_)⟩
  rw [transmit_eq]
  simp [es, finishTransmit, beginTransmit, State.atPos, State.withRunning, retire, release, reply, Levels.unknown, hpos]

/-- Settles O54: the run of SHOW makes the transaction of the zeroed buffer, whose frames are all dark. -/
theorem firstShowSendsDarkFrames : Obligations.FirstShowSendsDarkFrames := by
  rintro cfg n s rfl
  obtain ⟨t, hexec, _, hend⟩ := showRunsToCompletion { State.construct cfg n with answers := [.success] } ⟨rfl, rfl, rfl⟩
    (.inr rfl)
  refine ⟨t, _, hexec, hend, rfl, rfl, ?_⟩
  have hbright : ∀ p ∈ List.replicate n Pixel.zero, p.brightness.toNat ≤ 31 := fun p hp => by
    rw [List.eq_of_mem_replicate hp]
    decide
  have hdark : ledFrame Pixel.zero = 0xE0000000 := by decide
  have hbits := wireBits_transmitEvents (l := Levels.unknown) hbright nofun cfg.endFramePulses true
  rw [expectedBits, List.map_replicate, hdark, if_neg (by simp), List.drop_zero] at hbits
  exact hbits

end Sys2Proof.Machine
end
